-- ==== Sys2Proof/Word.lean ====
section
/-!
DEFINITION. The words of the Nexa433 decoder core (spec/30_encoding.md R90, spec/00_scope.md R14).
Every value is an unsigned integer of its stated width; bit 0 is the least significant bit.
-/

namespace Sys2Proof

/-- The input word of one clock, `rst_i, tick_i, sample_i` from bit 2 down to bit 0 (R91). -/
abbrev InWord := BitVec 3

/-- An event code (format EV, R94). Code 7 is reserved (R95). -/
abbrev EvCode := BitVec 3

/-- A quartet word: four event codes, the oldest in bits 11..9 (format Q, R97). -/
abbrev QuartetWord := BitVec 12

/-- A 32-bit raw packet (format PKT, R102). -/
abbrev Raw := BitVec 32

/-- An invalidation cause code (R271). -/
abbrev CauseCode := BitVec 2

end Sys2Proof
end

