-- ==== Sys2Proof/Config.lean ====
section
/-!
DEFINITION. The synthesis parameters of the core (spec/00_scope.md R10). They are arguments of the model
(92_eei_decisions.md D15, D18): `State.params` holds one set, and no step writes it (notes/assumptions/1.md).
The defaults, the derived constants and the constraints of R11 stand in Machine/Thresholds.lean.
The core has no value the spec leaves free in a reachable state, so there is no opaque constant here.
-/

namespace Sys2Proof

/-- The parameters of R10. All are counts of ticks. -/
structure Params where
  /-- `HS_NOM`, the short-high nominal run length. -/
  hsNom : Nat
  /-- `HS_FUZZ`, the short-high fuzz. -/
  hsFuzz : Nat
  /-- `LS_NOM`, the short-low nominal run length. -/
  lsNom : Nat
  /-- `LS_FUZZ`, the short-low fuzz. -/
  lsFuzz : Nat
  /-- `LL_NOM`, the long-low nominal run length. -/
  llNom : Nat
  /-- `LL_FUZZ`, the long-low fuzz. -/
  llFuzz : Nat
  /-- `SY_NOM`, the start/sync low nominal run length. -/
  syNom : Nat
  /-- `SY_FUZZ`, the start/sync low fuzz. -/
  syFuzz : Nat
  /-- `GUARD_MARGIN`, the guard ceiling above the end-pulse threshold. -/
  guardMargin : Nat
  /-- `COOLDOWN_TICKS`, the duplicate filter's cool-down reload value. -/
  cooldownTicks : Nat
  deriving DecidableEq, Repr

end Sys2Proof
end

