-- ==== Sys2Proof/Machine/Thresholds.lean ====
section
/-!
DEFINITION. The default parameters, the derived constants (spec/00_scope.md R10), the legal parameter sets (R11), the
register widths that follow from them (R12), and the form of the default cool-down (spec/43_filter_packet.md R250).
-/

namespace Sys2Proof

/-- The defaults of R10. -/
def Params.default : Params where
  hsNom := 4
  hsFuzz := 1
  lsNom := 6
  lsFuzz := 1
  llNom := 24
  llFuzz := 2
  syNom := 50
  syFuzz := 2
  guardMargin := 10
  cooldownTicks := 8004

/-- `HS_MIN` (R10). -/
def Params.hsMin (p : Params) : Nat := p.hsNom - p.hsFuzz
/-- `HS_MAX` (R10). -/
def Params.hsMax (p : Params) : Nat := p.hsNom + p.hsFuzz
/-- `LS_MIN` (R10). -/
def Params.lsMin (p : Params) : Nat := p.lsNom - p.lsFuzz
/-- `LS_MAX` (R10). -/
def Params.lsMax (p : Params) : Nat := p.lsNom + p.lsFuzz
/-- `LL_MIN` (R10). -/
def Params.llMin (p : Params) : Nat := p.llNom - p.llFuzz
/-- `LL_MAX` (R10). -/
def Params.llMax (p : Params) : Nat := p.llNom + p.llFuzz
/-- `SY_MIN` (R10). -/
def Params.syMin (p : Params) : Nat := p.syNom - p.syFuzz
/-- `SY_MAX` (R10). -/
def Params.syMax (p : Params) : Nat := p.syNom + p.syFuzz
/-- `END_THRESH`, the start-pulse window's upper edge + short-low length + long fuzz (R10). -/
def Params.endThresh (p : Params) : Nat := p.syMax + p.lsNom + p.llFuzz
/-- `GUARD_CEIL` (R10). -/
def Params.guardCeil (p : Params) : Nat := p.endThresh + p.guardMargin

/-- The eight constraints of R11, in its order. A nominal below its fuzz, whose window would begin below 0, breaks
the same constraints with the subtraction stopped at 0. -/
abbrev Params.Legal (p : Params) : Prop :=
  1 ≤ p.lsMin ∧
  (p.lsMin ≤ p.lsMax ∧ p.lsMax < p.llMin) ∧
  (p.llMin ≤ p.llMax ∧ p.llMax < p.syMin) ∧
  p.syMin ≤ p.syMax ∧
  p.syMax < p.endThresh ∧
  p.endThresh < p.guardCeil ∧
  (2 ≤ p.hsMin ∧ p.hsMin ≤ p.hsMax) ∧
  (1 ≤ p.cooldownTicks ∧ p.cooldownTicks ≤ 65535)

/-- The fewest bits that hold `n` (R12). -/
def bitsToHold (n : Nat) : Nat := if n = 0 then 0 else n.log2 + 1

/-- `ZW`, the width of ZERO_RUN (R12, R33). -/
def Params.zeroRunWidth (p : Params) : Nat := bitsToHold p.guardCeil
/-- `OW`, the width of ONE_RUN (R12, R34). -/
def Params.oneRunWidth (p : Params) : Nat := bitsToHold (p.hsMax + 1)

/-- The ticks of one data bit at the nominal run lengths (R250). -/
def Params.bitDuration (p : Params) : Nat := p.hsNom + p.lsNom + p.hsNom + p.llNom
/-- The ticks of a frame's start and stop at the nominal run lengths (R250). -/
def Params.frameOverhead (p : Params) : Nat := p.hsNom + p.syNom + p.hsNom + p.endThresh
/-- The form of the default cool-down: a frame's ticks times the expected number of repeats, 6 (R250). -/
def Params.burstTicks (p : Params) : Nat := (p.bitDuration * 32 + p.frameOverhead) * 6

end Sys2Proof
end

