-- ==== Sys2Proof/Syntax.lean ====
section
/-!
DEFINITION. The operations of spec/opcode_table.json, one constructor a row, and the words that carry them.
No row has an operand field: RESET and NOP ignore the input bits their masks leave out (R91, R300, R134), the
event codes and quartets are whole words (R94, R97).
-/

namespace Sys2Proof

/-- The fourteen rows of the opcode table. -/
inductive Instr where
  /-- RESET, `IN = 1xx` (R300). -/
  | reset
  /-- NOP, `IN = 00x` (R134). -/
  | nop
  /-- TICK0, `IN = 010` (R135). -/
  | tick0
  /-- TICK1, `IN = 011` (R136). -/
  | tick1
  /-- Event code 0 as assembler input (R217). -/
  | evNone
  /-- Event code 1 as assembler input (R218). -/
  | evInvalid
  /-- Event code 2 as assembler input (R219). -/
  | evHighShort
  /-- Event code 3 as assembler input (R220). -/
  | evLowShort
  /-- Event code 4 as assembler input (R221). -/
  | evLowLong
  /-- Event code 5 as assembler input (R222). -/
  | evSync
  /-- Event code 6 as assembler input (R223). -/
  | evPause
  /-- Event code 7, reserved (R224). -/
  | evReserved7
  /-- The quartet of data bit 0 (R208). -/
  | qBit0
  /-- The quartet of data bit 1 (R208). -/
  | qBit1
  deriving DecidableEq, Repr

/-- A pulse event: the seven values the classifier produces and the assembler consumes (R94, R96). The
reserved code 7 is no event (R95). -/
inductive Event where
  | none
  | invalid
  | highShort
  | lowShort
  | lowLong
  | sync
  | pause
  deriving DecidableEq, Repr

/-- The formats of R90 that have rows in the opcode table. -/
inductive Format where
  /-- The input word of a clock (R91). -/
  | portWord
  /-- An event code (R94). -/
  | eventCode
  /-- A quartet (R97). -/
  | quartet
  deriving DecidableEq, Repr

/-- One word presented to the machine, with its format. IN and EV have the same 3-bit words, so the format is
part of what is presented (notes/assumptions/3.md, 5.md). The composed core takes `port` words alone (R131);
`event` and `quartet` drive the stand-alone assembler (R95, R224). -/
inductive Stimulus where
  | port (w : InWord)
  | event (c : EvCode)
  | quartet (q : QuartetWord)
  deriving DecidableEq, Repr

end Sys2Proof
end

