-- ==== Sys2Proof/Machine/State.lean ====
section
/-!
DEFINITION. The machine's state (spec/10_state.md). `Regs` is the spec's state record, exactly the registers of R33-R49 in
the four groups of R31. `State` adds the model's own fields: the parameters, the results of stage 2, and the
environment's input words (notes/assumptions/1.md, 2.md, 4.md).
-/

namespace Sys2Proof.Machine

/-- MODE (R36, R201). -/
inductive Mode where
  /-- "no valid sequence yet", value 0. -/
  | searching
  /-- "inside a candidate frame", value 1. -/
  | accumulating
  deriving DecidableEq, Repr

/-- WIN[0..3], the event window (R37). Slot 0 is the oldest event of the current quartet. -/
structure Window where
  w0 : EvCode
  w1 : EvCode
  w2 : EvCode
  w3 : EvCode
  deriving DecidableEq, Repr

/-- Classifier state (R33-R35). -/
structure Classifier where
  /-- ZERO_RUN (R33). -/
  zeroRun : Nat
  /-- ONE_RUN (R34). -/
  oneRun : Nat
  /-- LAST_EV (R35). -/
  lastEv : EvCode
  deriving DecidableEq, Repr

/-- Frame Assembler state (R36-R40). -/
structure Assembler where
  /-- MODE (R36). -/
  mode : Mode
  /-- WIN[0..3] (R37). -/
  win : Window
  /-- WIN_CNT (R38). -/
  winCnt : BitVec 2
  /-- ACC (R39). -/
  acc : Raw
  /-- BIT_CNT (R40). -/
  bitCnt : BitVec 6
  deriving DecidableEq, Repr

/-- Duplicate-filter state (R41-R43). -/
structure DupFilter where
  /-- LAST_RAW (R41). -/
  lastRaw : Raw
  /-- LAST_VALID (R42). -/
  lastValid : Bool
  /-- CD_CNT (R43). -/
  cdCnt : BitVec 16
  deriving DecidableEq, Repr

/-- Output registers (R44-R49). -/
structure OutputRegs where
  /-- EV_CODE (R44). -/
  evCode : EvCode
  /-- EV_VALID (R45). -/
  evValid : Bool
  /-- PKT_VALID (R46). -/
  pktValid : Bool
  /-- PKT_RAW (R47). -/
  pktRaw : Raw
  /-- DUP (R48). -/
  dup : Bool
  /-- INV (R49). -/
  inv : CauseCode
  deriving DecidableEq, Repr

/-- The spec's state record (R31). -/
structure Regs where
  classifier : Classifier
  assembler : Assembler
  dupFilter : DupFilter
  outputs : OutputRegs
  deriving DecidableEq, Repr

/-- The two results of stage 2 beside the assembler's state (R200): the raw packet, if any, and the invalidation
cause. -/
structure Stage2Out where
  raw : Option Raw
  cause : CauseCode
  deriving DecidableEq, Repr

/-- The machine: the spec's registers and the model's own three fields. -/
structure State extends Regs where
  /-- The synthesis parameters (R10, R57). No step writes them (R316). -/
  params : Params
  /-- The results of the most recent run of stage 2 (R200). No rule reads them back. -/
  asmOut : Stage2Out
  /-- The words of the coming clocks (R58). -/
  input : List Stimulus
  deriving DecidableEq, Repr

/-- Why a step stops with a fault. -/
inductive Fault where
  /-- A tick, an event or a quartet from a state outside the legal ranges of R33-R43 or against the invariants
  R51-R55. Raised by every meaning that reads those registers; 93_implementation_defined.md I8 asks for it. Safe: no
  state reachable from reset is one. -/
  | unreachableState
  deriving DecidableEq, Repr

/-- Why a step is refused. -/
inductive Refusal where
  /-- An instruction without a meaning yet. Raised by an arm of `exec` alone; no arm raises it. Safe. -/
  | notModelled (mnemonic : String)
  /-- A parameter set that breaks R11. Raised by every meaning but the reserved event's. Safe: the spec asks a
  model to refuse it. -/
  | illegalParameters
  /-- Event code 7 given to the stand-alone assembler. Raised by EV_RESERVED7. Safe: the spec asks a model to refuse
  it (R95, R224). -/
  | reservedEventCode
  deriving DecidableEq, Repr

/-- The empty window, four times NONE (R204). -/
def Window.empty : Window := ⟨0, 0, 0, 0⟩

/-- RESET_STATE (R50, R300). -/
def Regs.reset : Regs where
  classifier := { zeroRun := 0, oneRun := 0, lastEv := 0 }
  assembler := { mode := .searching, win := .empty, winCnt := 0, acc := 0, bitCnt := 0 }
  dupFilter := { lastRaw := 0, lastValid := false, cdCnt := 0 }
  outputs := { evCode := 0, evValid := false, pktValid := false, pktRaw := 0, dup := false, inv := 0 }

/-- No raw packet and no cause (R200). -/
def Stage2Out.quiet : Stage2Out := ⟨none, 0⟩

/-- The machine right after reset (R50), at the default parameters (R10), with no input word placed. -/
def State.reset : State where
  toRegs := .reset
  params := .default
  asmOut := .quiet
  input := []

end Sys2Proof.Machine
end

