-- ==== Sys2Proof/Machine/Flags.lean ====
section
/-!
DEFINITION. The core's flags (R59: MODE and LAST_VALID are its only ones), the invalidation causes (R271) and the one-clock
pulses of the output registers (R134, R137-R140).
-/

namespace Sys2Proof.Machine

/-- The bit MODE holds (R36). -/
def Mode.bit : Mode → BitVec 1
  | .searching => 0
  | .accumulating => 1

/-- INV_CLASSIFY: an INVALID event while ACCUMULATING (R271). -/
def invClassify : CauseCode := 1
/-- INV_QUARTET: a malformed quartet (R271). -/
def invQuartet : CauseCode := 2
/-- INV_OVERFLOW: a canonical quartet while BIT_CNT = 32 (R271). -/
def invOverflow : CauseCode := 3

/-- The output registers after a clock that is not a tick: the four pulses are 0, EV_CODE and PKT_RAW hold
(R134, R138-R140). -/
def OutputRegs.clearPulses (o : OutputRegs) : OutputRegs :=
  { o with evValid := false, pktValid := false, dup := false, inv := 0 }

/-- The output registers after a tick (R133, R137-R140): the event `ev`, the cause, the duplicate flag and the
accepted packet, if any. -/
def OutputRegs.afterTick (o : OutputRegs) (ev : EvCode) (cause : CauseCode) (dup : Bool) (accepted : Option Raw) :
    OutputRegs :=
  { evCode := ev
    evValid := true
    pktValid := accepted.isSome
    pktRaw := accepted.getD o.pktRaw
    dup := dup
    inv := cause }

end Sys2Proof.Machine
end

