-- ==== Sys2Proof/WellFormed.lean ====
section
/-!
DEFINITION. Which operations are well formed. The core's only reserved encoding is event code 7 (R95, R109); every
other row is an operation in every form it has. (The constraints on a parameter set, R11, are `Params.Legal` of
Machine/Thresholds.lean.)
-/

namespace Sys2Proof

/-- Every row but the reserved event code 7 (R95, R109). -/
def Instr.wellFormed : Instr → Bool
  | .reset | .nop | .tick0 | .tick1 => true
  | .evNone | .evInvalid | .evHighShort | .evLowShort | .evLowLong | .evSync | .evPause => true
  | .evReserved7 => false
  | .qBit0 | .qBit1 => true

end Sys2Proof
end

