-- ==== Sys2Proof/Decode.lean ====
section
/-!
DEFINITION. Decoding and encoding (spec/30_encoding.md). `decode` searches the rows of the opcode table by match and
mask; `encode` writes each row's word from R91, R94 and R97, separately, so that their agreement says something.
-/

namespace Sys2Proof

/-- The code of an event (the table of R94). -/
def Event.code : Event → EvCode
  | .none => 0
  | .invalid => 1
  | .highShort => 2
  | .lowShort => 3
  | .lowLong => 4
  | .sync => 5
  | .pause => 6

/-- The format of a stimulus. -/
def Stimulus.format : Stimulus → Format
  | .port _ => .portWord
  | .event _ => .eventCode
  | .quartet _ => .quartet

/-- The word of a stimulus, widened with zeros to the widest format. -/
def Stimulus.word : Stimulus → BitVec 12
  | .port w => w.setWidth 12
  | .event c => c.setWidth 12
  | .quartet q => q

/-- One row of spec/opcode_table.json: its format, its match value, its mask and its operation. -/
structure OpcodeRow where
  format : Format
  pattern : BitVec 12
  mask : BitVec 12
  instr : Instr
  deriving DecidableEq, Repr

/-- A row matches a word of its format whose masked bits equal its pattern. -/
def OpcodeRow.fits (r : OpcodeRow) (x : Stimulus) : Bool :=
  r.format == x.format && (x.word &&& r.mask) == r.pattern

/-- The four rows of format IN (R91). -/
def portRows : List OpcodeRow :=
  [⟨.portWord, 0b100, 0b100, .reset⟩, ⟨.portWord, 0b000, 0b110, .nop⟩,
   ⟨.portWord, 0b010, 0b111, .tick0⟩, ⟨.portWord, 0b011, 0b111, .tick1⟩]

/-- The eight rows of format EV (R94, R95). -/
def eventRows : List OpcodeRow :=
  [⟨.eventCode, 0b000, 0b111, .evNone⟩, ⟨.eventCode, 0b001, 0b111, .evInvalid⟩,
   ⟨.eventCode, 0b010, 0b111, .evHighShort⟩, ⟨.eventCode, 0b011, 0b111, .evLowShort⟩,
   ⟨.eventCode, 0b100, 0b111, .evLowLong⟩, ⟨.eventCode, 0b101, 0b111, .evSync⟩,
   ⟨.eventCode, 0b110, 0b111, .evPause⟩, ⟨.eventCode, 0b111, 0b111, .evReserved7⟩]

/-- The two rows of format Q (R97). -/
def quartetRows : List OpcodeRow :=
  [⟨.quartet, 0x4D4, 0xFFF, .qBit0⟩, ⟨.quartet, 0x513, 0xFFF, .qBit1⟩]

/-- The opcode table. -/
def opcodeTable : List OpcodeRow := portRows ++ eventRows ++ quartetRows

/-- Why a word decodes to no row. -/
inductive Undecoded where
  /-- A quartet that is neither canonical one. It is no reserved word: its meaning is "invalidate" (R98, R109),
  which the step gives it. -/
  | malformedQuartet
  deriving DecidableEq, Repr

/-- The operation a stimulus names. Total: every IN word and every event code has a row (R91, R94, R95), so only a
malformed quartet has none (R98). -/
def decode (x : Stimulus) : Except Undecoded Instr :=
  match opcodeTable.find? (fun r => r.fits x) with
  | some r => .ok r.instr
  | none => .error .malformedQuartet

/-- Four event codes as a quartet word, the oldest most significant (R97). -/
def quartetWordOf (a b c d : EvCode) : QuartetWord := a ++ b ++ c ++ d

/-- The word of an operation. The ignored bits of RESET and NOP are written 0, as the directives RST and NOP write
them (R106). -/
def encode : Instr → Stimulus
  | .reset => .port 0b100
  | .nop => .port 0b000
  | .tick0 => .port 0b010
  | .tick1 => .port 0b011
  | .evNone => .event Event.none.code
  | .evInvalid => .event Event.invalid.code
  | .evHighShort => .event Event.highShort.code
  | .evLowShort => .event Event.lowShort.code
  | .evLowLong => .event Event.lowLong.code
  | .evSync => .event Event.sync.code
  | .evPause => .event Event.pause.code
  | .evReserved7 => .event 7
  | .qBit0 => .quartet (quartetWordOf Event.highShort.code Event.lowShort.code Event.highShort.code Event.lowLong.code)
  | .qBit1 => .quartet (quartetWordOf Event.highShort.code Event.lowLong.code Event.highShort.code Event.lowShort.code)

/-- The stimulus that a table word stands for. A word of 3 bits (8 in whole bytes) is an input word of the core's
ports, the core's own operation word (R91, R131); IN and EV share those words, and the table's word says no format
(DEDUCED, notes/assumptions/5.md). A word of 12 bits (16 in whole bytes) is a quartet. -/
def stimulusOfTableWord (nbits w : Nat) : Option Stimulus :=
  if nbits ≤ 8 then
    if w < 8 then some (.port (BitVec.ofNat 3 w)) else none
  else if nbits ≤ 16 then
    if w < 4096 then some (.quartet (BitVec.ofNat 12 w)) else none
  else none

/-- The decoder on a table word. -/
def decodeTableWord (nbits w : Nat) : Option Instr :=
  match stimulusOfTableWord nbits w with
  | some x =>
    match decode x with
    | .ok i => some i
    | .error _ => none
  | none => none

end Sys2Proof
end

