-- ==== Sys2Proof/Machine/Operands.lean ====
section
/-!
DEFINITION. What the operations read: the sample of a tick (R78, R93), the slots of the event window (R37), and the quartet it
holds (R97).
-/

namespace Sys2Proof.Machine

/-- WIN[i] (R37). -/
def Window.get (w : Window) (i : Fin 4) : EvCode :=
  match i with
  | 0 => w.w0
  | 1 => w.w1
  | 2 => w.w2
  | 3 => w.w3

/-- `w with w[i] = c` (R207). -/
def Window.set (w : Window) (i : Fin 4) (c : EvCode) : Window :=
  match i with
  | 0 => { w with w0 := c }
  | 1 => { w with w1 := c }
  | 2 => { w with w2 := c }
  | 3 => { w with w3 := c }

/-- The quartet `WIN[0], WIN[1], WIN[2], WIN[3]` as a word (R97). -/
def Window.word (w : Window) : QuartetWord := quartetWordOf w.w0 w.w1 w.w2 w.w3

/-- The window that holds a quartet word (R97). -/
def windowOfWord (q : QuartetWord) : Window :=
  ⟨q.extractLsb' 9 3, q.extractLsb' 6 3, q.extractLsb' 3 3, q.extractLsb' 0 3⟩

/-- The quartet of data bit 0, oldest first (R97, R208). -/
def Window.bit0 : Window :=
  ⟨Event.highShort.code, Event.lowShort.code, Event.highShort.code, Event.lowLong.code⟩

/-- The quartet of data bit 1, oldest first (R97, R208). -/
def Window.bit1 : Window :=
  ⟨Event.highShort.code, Event.lowLong.code, Event.highShort.code, Event.lowShort.code⟩

/-- The data bit a quartet stands for; none for a malformed one (R97, R98). -/
def Window.dataBit (w : Window) : Option Bool :=
  if w = .bit0 then some false else if w = .bit1 then some true else none

/-- The codes that enter the window: HIGH_SHORT, LOW_SHORT, LOW_LONG (R98, R207). -/
def isDataCode (c : EvCode) : Bool :=
  c == Event.highShort.code || c == Event.lowShort.code || c == Event.lowLong.code

end Sys2Proof.Machine
end

