-- ==== Sys2Proof/Machine/Legality.lean ====
section
/-!
DEFINITION. The states the spec admits: the legal ranges of R33-R43 and the invariants R51-R55 of spec/10_state.md.
93_implementation_defined.md I8 asks a model to fault when it steps from any other state.
-/

namespace Sys2Proof.Machine

/-- ZERO_RUN in 0..GUARD_CEIL (R33), ONE_RUN in 0..HS_MAX+1 (R34), LAST_EV in 0..6 (R35), at most one run counter
non-zero (R51). -/
abbrev Classifier.Legal (p : Params) (c : Classifier) : Prop :=
  c.zeroRun ≤ p.guardCeil ∧ c.oneRun ≤ p.hsMax + 1 ∧ c.lastEv ≠ 7 ∧ (c.zeroRun = 0 ∨ c.oneRun = 0)

/-- The assembler's cleared state (R204). -/
abbrev Assembler.IsClear (a : Assembler) : Prop :=
  a.win = .empty ∧ a.winCnt = 0 ∧ a.acc = 0 ∧ a.bitCnt = 0

/-- SEARCHING is the cleared state (R52); slots below the cursor hold data events and the others NONE (R37, R53);
BIT_CNT is at most 32 and ACC has no bit at or above it (R40, R54). -/
abbrev Assembler.Legal (a : Assembler) : Prop :=
  (a.mode = .searching → a.IsClear) ∧
  (∀ i : Fin 4, if i.val < a.winCnt.toNat then isDataCode (a.win.get i) = true else a.win.get i = 0) ∧
  a.bitCnt.toNat ≤ 32 ∧
  (a.bitCnt.toNat < 32 → a.acc.toNat < 2 ^ a.bitCnt.toNat)

/-- CD_CNT in 0..COOLDOWN_TICKS (R43); a value is stored exactly while the countdown runs, and LAST_RAW is 0
otherwise (R41, R55). -/
abbrev DupFilter.Legal (p : Params) (f : DupFilter) : Prop :=
  f.cdCnt.toNat ≤ p.cooldownTicks ∧
  (f.lastValid = true ↔ f.cdCnt ≠ 0) ∧
  (f.lastValid = false → f.lastRaw = 0)

/-- A legal state of the core's registers. -/
abbrev Regs.Legal (p : Params) (r : Regs) : Prop :=
  r.classifier.Legal p ∧ r.assembler.Legal ∧ r.dupFilter.Legal p

/-- A state from which every operation of the core is defined: legal parameters (R11) and legal registers. -/
abbrev State.Legal (s : State) : Prop :=
  s.params.Legal ∧ s.toRegs.Legal s.params

end Sys2Proof.Machine
end

