-- ==== Sys2Proof/Machine/Ops.lean ====
section
/-!
DEFINITION. The shared operations: the primitives of R15, the classifier (spec/41_classifier.md), the assembler
(spec/42_assembler.md) with the invalidation (the core's counterpart of taking an exception, R277) and SYNC's re-arming
(its counterpart of a return, R278), the duplicate filter (spec/43_filter_packet.md), the tick that composes them
(spec/40_top_level.md R133), and how a meaning stops or goes on.
-/

namespace Sys2Proof.Machine

/-! ### The primitives of R15 -/

/-- `sat_inc(v, m)` (R15). -/
def satInc (v m : Nat) : Nat := min (v + 1) m

/-- `dec0(v)` (R15). -/
def dec0 (v : BitVec 16) : BitVec 16 := if v = 0 then 0 else v - 1

/-- `shl_in(acc, b)`: the accumulator moves up one place and `b` enters at bit 0 (R15, R209). -/
def shlIn (acc : Raw) (b : Bool) : Raw := (acc <<< 1) ||| (BitVec.ofBool b).setWidth 32

/-- `in(v, lo, hi)` (R15). -/
def inWindow (v lo hi : Nat) : Bool := decide (lo ≤ v) && decide (v ≤ hi)

/-! ### Stage 1: the Pulse Classifier -/

/-- The event of an ended zero run of length `z`: the three low windows, tried in order (R162-R165). -/
def endedLowEvent (p : Params) (z : Nat) : Option Event :=
  if inWindow z p.lsMin p.lsMax then some .lowShort
  else if inWindow z p.llMin p.llMax then some .lowLong
  else if inWindow z p.syMin p.syMax then some .sync
  else none

/-- The one-run analysis, of the extended one run `o` (R166-R168). -/
def highRunEvent (p : Params) (o : Nat) (last : EvCode) : Event :=
  if o > p.hsMax then .invalid
  else if inWindow o p.hsMin p.hsMax && last != Event.highShort.code then .highShort
  else .none

/-- The event of a 0 sample, by the zero run before it (R170-R172). -/
def lowRunEvent (p : Params) (zr : Nat) : Event :=
  if zr < p.guardCeil then (if zr + 1 = p.endThresh then .pause else .none) else .invalid

/-- LAST_EV after the tick's event (R173). -/
def recordEvent (last : EvCode) (ev : Event) : EvCode := if ev = .none then last else ev.code

/-- The classifier on a 1 sample (R161-R168, R173). -/
def classifyHigh (p : Params) (c : Classifier) : Event × Classifier :=
  let o := satInc c.oneRun (p.hsMax + 1)
  let ev := (endedLowEvent p c.zeroRun).getD (highRunEvent p o c.lastEv)
  (ev, { zeroRun := 0, oneRun := o, lastEv := recordEvent c.lastEv ev })

/-- The classifier on a 0 sample (R169-R173). -/
def classifyLow (p : Params) (c : Classifier) : Event × Classifier :=
  let ev := lowRunEvent p c.zeroRun
  (ev, { zeroRun := if c.zeroRun < p.guardCeil then c.zeroRun + 1 else c.zeroRun
         oneRun := 0
         lastEv := recordEvent c.lastEv ev })

/-- Stage 1 (R160, R174). -/
def classify (p : Params) (c : Classifier) (b : Bool) : Event × Classifier :=
  if b then classifyHigh p c else classifyLow p c

/-! ### Stage 2: the Frame Assembler -/

/-- `CLEAR` (R204). MODE is not its concern. -/
def Assembler.clear (a : Assembler) : Assembler :=
  { a with win := .empty, winCnt := 0, acc := 0, bitCnt := 0 }

/-- Nothing happens: an ignored event (R202, R206, R213). -/
def ignoreEvent (a : Assembler) : Stage2Out × Assembler := (.quiet, a)

/-- `invalidate(c)`, the core's counterpart of taking an exception (R203, R277): MODE becomes SEARCHING, CLEAR, no
packet, cause `c`; nothing else is saved (R273). -/
def invalidate (c : CauseCode) (a : Assembler) : Stage2Out × Assembler :=
  (⟨none, c⟩, { a.clear with mode := .searching })

/-- SYNC, the core's counterpart of a return (R278): MODE becomes ACCUMULATING and CLEAR, in either mode (R205, R215,
R222). -/
def rearm (a : Assembler) : Stage2Out × Assembler := (.quiet, { a.clear with mode := .accumulating })

/-- The frame is complete: the raw packet is ACC, MODE becomes SEARCHING, CLEAR (R212). -/
def completeFrame (a : Assembler) : Stage2Out × Assembler :=
  (⟨some a.acc, 0⟩, { a.clear with mode := .searching })

/-- A matched bit: shifted in below 32 bits (R209), an overflow at 32 (R210). The window is cleared in either case
(R208). -/
def shiftMatchedBit (b : Bool) (a : Assembler) : Stage2Out × Assembler :=
  if a.bitCnt = 32 then invalidate invOverflow a
  else (.quiet, { a with win := .empty, winCnt := 0, acc := shlIn a.acc b, bitCnt := a.bitCnt + 1 })

/-- A filled window is interpreted; the quartet is matched before the bit count is tested (R208, R211). -/
def interpretQuartet (q : Window) (a : Assembler) : Stage2Out × Assembler :=
  match q.dataBit with
  | some b => shiftMatchedBit b a
  | none => invalidate invQuartet a

/-- A data event in ACCUMULATING is appended, and a window it fills is interpreted in the same tick (R207, R208). The
cursor's value 4 stands only in this count (R38). -/
def appendEvent (c : EvCode) (a : Assembler) : Stage2Out × Assembler :=
  let w := a.win.set a.winCnt.toFin c
  let n := a.winCnt.toNat + 1
  if n < 4 then (.quiet, { a with win := w, winCnt := BitVec.ofNat 2 n }) else interpretQuartet w a

/-- An action that only ACCUMULATING takes: in SEARCHING the event is ignored (R202). -/
def whenAccumulating (f : Assembler → Stage2Out × Assembler) (a : Assembler) : Stage2Out × Assembler :=
  match a.mode with
  | .searching => ignoreEvent a
  | .accumulating => f a

/-- NONE (R217). -/
def onNone (a : Assembler) : Stage2Out × Assembler := ignoreEvent a
/-- INVALID (R218). -/
def onInvalid (a : Assembler) : Stage2Out × Assembler := whenAccumulating (invalidate invClassify) a
/-- HIGH_SHORT, LOW_SHORT and LOW_LONG (R219, R220, R221). -/
def onData (c : EvCode) (a : Assembler) : Stage2Out × Assembler := whenAccumulating (appendEvent c) a
/-- SYNC (R222). -/
def onSync (a : Assembler) : Stage2Out × Assembler := rearm a
/-- PAUSE (R223): completes the frame at 32 bits, and is ignored below. -/
def onPause (a : Assembler) : Stage2Out × Assembler :=
  whenAccumulating (fun a => if a.bitCnt = 32 then completeFrame a else ignoreEvent a) a
/-- A filled window with the quartet of a data bit (R208). -/
def onMatchedQuartet (b : Bool) (a : Assembler) : Stage2Out × Assembler := whenAccumulating (shiftMatchedBit b) a
/-- A filled window with a malformed quartet (R98, R211). -/
def onMalformedQuartet (a : Assembler) : Stage2Out × Assembler := whenAccumulating (invalidate invQuartet) a

/-- Stage 2 (R200, R216). -/
def advance (a : Assembler) (ev : Event) : Stage2Out × Assembler :=
  match ev with
  | .none => onNone a
  | .invalid => onInvalid a
  | .highShort => onData Event.highShort.code a
  | .lowShort => onData Event.lowShort.code a
  | .lowLong => onData Event.lowLong.code a
  | .sync => onSync a
  | .pause => onPause a

/-! ### Stages 0 and 3: the Duplicate Filter -/

/-- Stage 0, the countdown; its expiry clears the stored value (R241). -/
def countdown (f : DupFilter) : DupFilter :=
  if f.cdCnt = 0 then f
  else if dec0 f.cdCnt = 0 then { lastRaw := 0, lastValid := false, cdCnt := 0 }
  else { f with cdCnt := dec0 f.cdCnt }

/-- The results of stage 3 (R248). -/
structure FilterResult where
  accepted : Option Raw
  dup : Bool
  dupFilter : DupFilter
  deriving DecidableEq, Repr

/-- Stage 3 (R243, R244, R246, R248). -/
def filterRaw (p : Params) (raw : Option Raw) (f : DupFilter) : FilterResult :=
  match raw with
  | none => ⟨none, false, f⟩
  | some v =>
    if f.lastValid = true ∧ v = f.lastRaw then ⟨none, true, f⟩
    else ⟨some v, false, { lastRaw := v, lastValid := true, cdCnt := BitVec.ofNat 16 p.cooldownTicks }⟩

/-! ### The tick -/

/-- The tick with sample `b` (R133): countdown, classifier, assembler, compare, output registers. -/
def tick (p : Params) (b : Bool) (r : Regs) : Stage2Out × Regs :=
  let f1 := countdown r.dupFilter
  let c := classify p r.classifier b
  let a := advance r.assembler c.1
  let f := filterRaw p a.1.raw f1
  (a.1, { classifier := c.2
          assembler := a.2
          dupFilter := f.dupFilter
          outputs := r.outputs.afterTick c.1.code a.1.cause f.dup f.accepted })

/-! ### How a meaning goes on or stops -/

/-- A parameter set that breaks R11 is refused. -/
def ifConfigured (s : State) (t : State) : Host.Outcome State Fault Refusal :=
  if s.params.Legal then .next t else .refused .illegalParameters

/-- A state outside the legal ranges and invariants faults (93_implementation_defined.md I8). -/
def ifReachable (s : State) (t : State) : Host.Outcome State Fault Refusal :=
  if s.params.Legal then
    if s.toRegs.Legal s.params then .next t else .fault .unreachableState
  else .refused .illegalParameters

/-- Every register at its reset value; the parameters and the coming input words are not registers (R57, R300). -/
def resetState (s : State) : State := { s with toRegs := .reset, asmOut := .quiet }

/-- The state after a clock that is not a tick (R134). -/
def idleState (s : State) : State := { s with outputs := s.outputs.clearPulses }

/-- The state after a tick with sample `b` (R133). -/
def tickState (b : Bool) (s : State) : State :=
  { s with toRegs := (tick s.params b s.toRegs).2, asmOut := (tick s.params b s.toRegs).1 }

/-- The state after stage 2 alone took the action `f`: the assembler and its two results change, and nothing else
(R160, R200, R277). -/
def assemblerState (f : Assembler → Stage2Out × Assembler) (s : State) : State :=
  { s with assembler := (f s.assembler).2, asmOut := (f s.assembler).1 }

/-! ### The input words -/

/-- The word of this clock and the state with the words of the later clocks. With no word placed, no clock edge
happens (R285). -/
def fetch (s : State) : Option (Stimulus × State) :=
  match s.input with
  | [] => none
  | x :: rest => some (x, { s with input := rest })

/-- The input words with the next one written: the word of the next clock is replaced, or placed if there is none. -/
def placeInput (x : Stimulus) (input : List Stimulus) : List Stimulus := x :: input.tail

end Sys2Proof.Machine
end

