-- ==== Sys2Proof/Machine/EventInput.lean ====
section
/-!
DEFINITION. The event codes of format EV as inputs of the Frame Assembler (spec/42_assembler.md R217-R224). Each runs stage 2
alone on the state, with the operation a tick uses for the same event (R133, R216).
-/

namespace Sys2Proof.Machine

/-- EV_NONE (R217). -/
def execEvNone (s : State) : Host.Outcome State Fault Refusal := ifReachable s (assemblerState onNone s)

/-- EV_INVALID (R218). -/
def execEvInvalid (s : State) : Host.Outcome State Fault Refusal := ifReachable s (assemblerState onInvalid s)

/-- EV_HIGH_SHORT (R219). -/
def execEvHighShort (s : State) : Host.Outcome State Fault Refusal :=
  ifReachable s (assemblerState (onData Event.highShort.code) s)

/-- EV_LOW_SHORT (R220). -/
def execEvLowShort (s : State) : Host.Outcome State Fault Refusal :=
  ifReachable s (assemblerState (onData Event.lowShort.code) s)

/-- EV_LOW_LONG (R221). -/
def execEvLowLong (s : State) : Host.Outcome State Fault Refusal :=
  ifReachable s (assemblerState (onData Event.lowLong.code) s)

/-- EV_SYNC (R222). -/
def execEvSync (s : State) : Host.Outcome State Fault Refusal := ifReachable s (assemblerState onSync s)

/-- EV_PAUSE (R223). -/
def execEvPause (s : State) : Host.Outcome State Fault Refusal := ifReachable s (assemblerState onPause s)

/-- EV_RESERVED7 (R95, R224): a model of the assembler must refuse it and give it the meaning of no event. -/
def execEvReserved7 (_s : State) : Host.Outcome State Fault Refusal := .refused .reservedEventCode

end Sys2Proof.Machine
end

