-- ==== Sys2Proof/Machine/Port.lean ====
section
/-!
DEFINITION. The port operations of format IN: RESET (spec/70_reset_and_hazards.md R300), NOP, TICK0 and TICK1
(spec/40_top_level.md R134-R136).
-/

namespace Sys2Proof.Machine

/-- RESET (R300): every register takes its reset value, from any state. -/
def execReset (s : State) : Host.Outcome State Fault Refusal := ifConfigured s (resetState s)

/-- NOP (R134): the four pulse outputs are cleared and nothing else changes, from any state. -/
def execNop (s : State) : Host.Outcome State Fault Refusal := ifConfigured s (idleState s)

/-- TICK0 (R135): a tick with a low sample. -/
def execTick0 (s : State) : Host.Outcome State Fault Refusal := ifReachable s (tickState false s)

/-- TICK1 (R136): a tick with a high sample. -/
def execTick1 (s : State) : Host.Outcome State Fault Refusal := ifReachable s (tickState true s)

end Sys2Proof.Machine
end

