-- ==== Sys2Proof/Machine/QuartetInput.lean ====
section
/-!
DEFINITION. The quartets of format Q: the interpretation of a filled window (spec/42_assembler.md R208-R211), with the operations
the fourth event of a quartet uses. In SEARCHING no quartet is interpreted (DEDUCED from R202; notes/assumptions/8.md).
-/

namespace Sys2Proof.Machine

/-- Q_BIT0 (R208): the window is cleared and data bit 0 is shifted in (R209) or overflows (R210). -/
def execQBit0 (s : State) : Host.Outcome State Fault Refusal :=
  ifReachable s (assemblerState (onMatchedQuartet false) s)

/-- Q_BIT1 (R208): the window is cleared and data bit 1 is shifted in (R209) or overflows (R210). -/
def execQBit1 (s : State) : Host.Outcome State Fault Refusal :=
  ifReachable s (assemblerState (onMatchedQuartet true) s)

/-- What a word without a row does: a malformed quartet invalidates the frame with cause 2 (R98, R211; DEDUCED,
notes/assumptions/9.md). -/
def execUndecoded (e : Undecoded) (s : State) : Host.Outcome State Fault Refusal :=
  match e with
  | .malformedQuartet => ifReachable s (assemblerState onMalformedQuartet s)

end Sys2Proof.Machine
end

