-- ==== Sys2Proof/Machine/Dispatch.lean ====
section
/-!
DEFINITION. The meaning of each row of spec/opcode_table.json.
-/

namespace Sys2Proof.Machine

def exec (i : Instr) (s : State) : Host.Outcome State Fault Refusal :=
  match i with
  | .reset => Sys2Proof.Machine.execReset s
  | .nop => Sys2Proof.Machine.execNop s
  | .tick0 => Sys2Proof.Machine.execTick0 s
  | .tick1 => Sys2Proof.Machine.execTick1 s
  | .evNone => Sys2Proof.Machine.execEvNone s
  | .evInvalid => Sys2Proof.Machine.execEvInvalid s
  | .evHighShort => Sys2Proof.Machine.execEvHighShort s
  | .evLowShort => Sys2Proof.Machine.execEvLowShort s
  | .evLowLong => Sys2Proof.Machine.execEvLowLong s
  | .evSync => Sys2Proof.Machine.execEvSync s
  | .evPause => Sys2Proof.Machine.execEvPause s
  | .evReserved7 => Sys2Proof.Machine.execEvReserved7 s
  | .qBit0 => Sys2Proof.Machine.execQBit0 s
  | .qBit1 => Sys2Proof.Machine.execQBit1 s

end Sys2Proof.Machine
end

