-- ==== Sys2Proof/Machine/Step.lean ====
section
/-!
DEFINITION. One step: one clock edge with the next input word (R131, R132), or no edge when no word is placed (R285).
-/

namespace Sys2Proof.Machine

/-- One clock. The word of the clock is taken from the input, decoded and run. -/
def step (s : State) : Host.Outcome State Fault Refusal :=
  match fetch s with
  | none => .next s
  | some (x, s1) =>
    match decode x with
    | .ok i => exec i s1
    | .error e => execUndecoded e s1

/-- The state whose next clock carries the given table word (R91, R97); a word that no format has leaves the state as
it is. -/
def State.withFetchWord (s : State) (nbits w : Nat) : State :=
  match stimulusOfTableWord nbits w with
  | some x => { s with input := placeInput x s.input }
  | none => s

end Sys2Proof.Machine
end

