-- ==== Sys2Proof/Machine/Ports.lean ====
section
/-!
DEFINITION. The output ports (spec/30_encoding.md R92) and the Packet projection (spec/43_filter_packet.md R251). Reading them has
no side effect (R80): they are a function of the output registers alone (R131).
-/

namespace Sys2Proof.Machine

/-- The decoded packet (R102, R251). -/
structure Packet where
  deviceId : BitVec 26
  group : BitVec 1
  onOff : BitVec 1
  channel : BitVec 2
  unit : BitVec 2
  deriving DecidableEq, Repr

/-- The projection of a raw packet to its fields (R251). No validation (R252). -/
def packetOf (raw : Raw) : Packet where
  deviceId := raw.extractLsb' 6 26
  group := raw.extractLsb' 5 1
  onOff := raw.extractLsb' 4 1
  channel := raw.extractLsb' 2 2
  unit := raw.extractLsb' 0 2

/-- The output ports of R92. -/
structure Ports where
  evValid : Bool
  evCode : EvCode
  pktValid : Bool
  pktRaw : Raw
  deviceId : BitVec 26
  group : BitVec 1
  onOff : BitVec 1
  channel : BitVec 2
  unit : BitVec 2
  dup : Bool
  inv : CauseCode
  deriving DecidableEq, Repr

/-- What the ports show, from the output registers (R92). -/
def ports (o : OutputRegs) : Ports where
  evValid := o.evValid
  evCode := o.evCode
  pktValid := o.pktValid
  pktRaw := o.pktRaw
  deviceId := (packetOf o.pktRaw).deviceId
  group := (packetOf o.pktRaw).group
  onOff := (packetOf o.pktRaw).onOff
  channel := (packetOf o.pktRaw).channel
  unit := (packetOf o.pktRaw).unit
  dup := o.dup
  inv := o.inv

end Sys2Proof.Machine
end

