-- ==== Sys2Proof/Machine/WholeStep.lean ====
section
/-!
DEFINITION. The whole step as the one function of spec/40_top_level.md R145, transcribed line by line and sharing no stage
operation with Machine/Ops.lean. `step` does not use it; that the two agree is a statement.
-/

namespace Sys2Proof.Machine

/-- The values stage 2 of R145 hands on: mode, window, cursor, accumulator, bit count, raw packet, cause. -/
structure WholeStage2 where
  m : Mode
  w : Window
  wc : BitVec 2
  a : Raw
  bc : BitVec 6
  raw : Option Raw
  cause : CauseCode
  deriving DecidableEq, Repr

/-- Stage 2 of R145. -/
def wholeStage2 (r : Assembler) (ev : EvCode) : WholeStage2 :=
  let hold : WholeStage2 := ⟨r.mode, r.win, r.winCnt, r.acc, r.bitCnt, none, 0⟩
  let cleared (m : Mode) (raw : Option Raw) (cause : CauseCode) : WholeStage2 :=
    ⟨m, ⟨0, 0, 0, 0⟩, 0, 0, 0, raw, cause⟩
  if r.mode = .searching then
    if ev = 5 then cleared .accumulating none 0 else hold
  else if ev = 0 then hold
  else if ev = 1 then cleared .searching none 1
  else if ev = 5 then cleared .accumulating none 0
  else if ev = 6 then
    if r.bitCnt = 32 then cleared .searching (some r.acc) 0 else hold
  else
    let w : Window :=
      ⟨if r.winCnt = 0 then ev else r.win.w0, if r.winCnt = 1 then ev else r.win.w1,
       if r.winCnt = 2 then ev else r.win.w2, if r.winCnt = 3 then ev else r.win.w3⟩
    if r.winCnt = 3 then
      if w = ⟨2, 3, 2, 4⟩ ∨ w = ⟨2, 4, 2, 3⟩ then
        if r.bitCnt = 32 then cleared .searching none 3
        else
          let bit : BitVec 32 := if w = ⟨2, 3, 2, 4⟩ then 0 else 1
          ⟨r.mode, ⟨0, 0, 0, 0⟩, 0, (r.acc <<< 1) ||| bit, r.bitCnt + 1, none, 0⟩
      else cleared .searching none 2
    else ⟨r.mode, w, r.winCnt + 1, r.acc, r.bitCnt, none, 0⟩

/-- Stage 0 of R145: the countdown and the stored value after it. -/
def wholeStage0 (f : DupFilter) : DupFilter :=
  if f.cdCnt = 0 then f
  else
    let cd := f.cdCnt - 1
    { lastRaw := if cd = 0 then 0 else f.lastRaw, lastValid := if cd = 0 then false else f.lastValid, cdCnt := cd }

/-- The event of stage 1 of R145, on a sample `b`. -/
def wholeEvent (p : Params) (b : Bool) (c : Classifier) : EvCode :=
  if b then
    let orn := min (c.oneRun + 1) (p.hsMax + 1)
    if p.lsMin ≤ c.zeroRun ∧ c.zeroRun ≤ p.lsMax then 3
    else if p.llMin ≤ c.zeroRun ∧ c.zeroRun ≤ p.llMax then 4
    else if p.syMin ≤ c.zeroRun ∧ c.zeroRun ≤ p.syMax then 5
    else if p.hsMax < orn then 1
    else if (p.hsMin ≤ orn ∧ orn ≤ p.hsMax) ∧ c.lastEv ≠ 2 then 2
    else 0
  else if c.zeroRun < p.guardCeil then (if c.zeroRun + 1 = p.endThresh then 6 else 0)
  else 1

/-- Stage 1 of R145: the classifier's registers after the event `ev`. -/
def wholeStage1 (p : Params) (b : Bool) (c : Classifier) (ev : EvCode) : Classifier where
  zeroRun := if b then 0 else if c.zeroRun < p.guardCeil then c.zeroRun + 1 else c.zeroRun
  oneRun := if b then min (c.oneRun + 1) (p.hsMax + 1) else 0
  lastEv := if ev ≠ 0 then ev else c.lastEv

/-- The tick of R145. -/
def wholeTick (p : Params) (b : Bool) (S : Regs) : Regs :=
  let f := wholeStage0 S.dupFilter
  let ev := wholeEvent p b S.classifier
  let q := wholeStage2 S.assembler ev
  let outputs (pv dup : Bool) (praw : Raw) : OutputRegs :=
    { evCode := ev, evValid := true, pktValid := pv, pktRaw := praw, dup := dup, inv := q.cause }
  let result (f : DupFilter) (o : OutputRegs) : Regs :=
    { classifier := wholeStage1 p b S.classifier ev
      assembler := { mode := q.m, win := q.w, winCnt := q.wc, acc := q.a, bitCnt := q.bc }
      dupFilter := f
      outputs := o }
  match q.raw with
  | none => result f (outputs false false S.outputs.pktRaw)
  | some raw =>
    if f.lastValid = true ∧ raw = f.lastRaw then result f (outputs false true S.outputs.pktRaw)
    else
      result { lastRaw := raw, lastValid := true, cdCnt := BitVec.ofNat 16 p.cooldownTicks } (outputs true false raw)

/-- The step of R145 on the registers. -/
def wholeStep (p : Params) (inw : InWord) (S : Regs) : Regs :=
  if inw.getLsbD 2 then .reset
  else if inw.getLsbD 1 = false then
    { S with outputs := { S.outputs with evValid := false, pktValid := false, dup := false, inv := 0 } }
  else wholeTick p (inw.getLsbD 0) S

end Sys2Proof.Machine
end

