-- ==== Sys2Proof/Machine/Directives.lean ====
section
/-!
DEFINITION. The stimulus directives of spec/30_encoding.md: the four directives of R106, the pseudo-directives of R107 and the
input words they expand to. A program's encoding is the sequence of its input words (R108).
-/

namespace Sys2Proof.Machine

/-- The directives of R106. -/
inductive Directive where
  /-- `RST`. -/
  | rst
  /-- `NOP n`. -/
  | nop (n : Nat)
  /-- `T0 n` and `L n`. -/
  | low (n : Nat)
  /-- `T1 n` and `H n`. -/
  | high (n : Nat)
  deriving DecidableEq, Repr

/-- The input words of a directive (R106). -/
def Directive.words : Directive → List InWord
  | .rst => [0b100]
  | .nop n => List.replicate n 0b000
  | .low n => List.replicate n 0b010
  | .high n => List.replicate n 0b011

/-- The operations of a directive, one a word (R106). -/
def Directive.ops : Directive → List Instr
  | .rst => [.reset]
  | .nop n => List.replicate n .nop
  | .low n => List.replicate n .tick0
  | .high n => List.replicate n .tick1

/-- The pseudo-directives of R107. -/
inductive PseudoDirective where
  | shortH
  | shortL
  | longL
  | syncL
  | pauseL
  | idle (n : Nat)
  | bit0
  | bit1
  | start
  | stop
  | frame (v : Raw)
  deriving DecidableEq, Repr

/-- The four pulses of a data bit (R99, R107). -/
def bitDirectives (b : Bool) : List Directive :=
  if b then [.high 4, .low 24, .high 4, .low 6] else [.high 4, .low 6, .high 4, .low 24]

/-- The bits of a raw packet, most significant first (R73, R107). -/
def bitsMsbFirst (v : Raw) : List Bool := (List.range 32).map (fun k => v.getMsbD k)

/-- The expansion of a pseudo-directive (R107). -/
def PseudoDirective.directives : PseudoDirective → List Directive
  | .shortH => [.high 4]
  | .shortL => [.low 6]
  | .longL => [.low 24]
  | .syncL => [.low 50]
  | .pauseL => [.low 60]
  | .idle n => [.low n]
  | .bit0 => bitDirectives false
  | .bit1 => bitDirectives true
  | .start => [.high 4, .low 50]
  | .stop => [.high 4, .low 60]
  | .frame v => [.high 4, .low 50] ++ (bitsMsbFirst v).flatMap bitDirectives ++ [.high 4, .low 60]

/-- The input words of a list of directives (R108). -/
def directiveWords (ds : List Directive) : List InWord := ds.flatMap Directive.words

end Sys2Proof.Machine
end

