-- ==== Sys2Proof/Safety.lean ====
section
/-!
DEFINITION. What counts as a safe run, and the other terms the statements use: the invariant of the machine, the inputs
of the composed core, agreement apart from the pulse outputs (R143), and the event form of a frame (R101).
-/

namespace Sys2Proof.Machine

/-- What the output registers keep: EV_CODE is never the reserved code (R95), a packet and a duplicate are never
announced together (R141), no packet or duplicate is announced with an invalidation (R276), the pulses are 0 unless the
last clock was a tick (R134, R137), and a stored last value is the packet last announced (R246). -/
abbrev OutputRegs.Consistent (o : OutputRegs) (f : DupFilter) : Prop :=
  o.evCode ≠ 7 ∧
  ¬ (o.pktValid = true ∧ o.dup = true) ∧
  (o.inv ≠ 0 → o.pktValid = false ∧ o.dup = false) ∧
  (o.evValid = false → o.pktValid = false ∧ o.dup = false ∧ o.inv = 0) ∧
  (f.lastValid = true → f.lastRaw = o.pktRaw)

/-- The machine's invariant: legal parameters, legal registers (R51-R55 among them), consistent outputs. -/
abbrev State.Inv (s : State) : Prop := s.Legal ∧ s.outputs.Consistent s.dupFilter

/-- The stimulus is an input word of the composed core (R131). -/
def isPort : Stimulus → Bool
  | .port _ => true
  | .event _ => false
  | .quartet _ => false

/-- The state with the given input words placed for the coming clocks. -/
def State.feed (s : State) (xs : List Stimulus) : State := { s with input := xs }

/-- The state with input words of the composed core placed for the coming clocks. -/
def State.feedWords (s : State) (ws : List InWord) : State := s.feed (ws.map Stimulus.port)

/-- `n` clocks of the machine. -/
abbrev runClocks (n : Nat) (s : State) : Host.Outcome State Fault Refusal := Host.Core.run Sys2Proof.core n s

/-- The input word of a tick with sample `b` (R91, R93). -/
def tickWord (b : Bool) : InWord := if b then 0b011 else 0b010

/-- The packet a state announces: PKT_RAW while PKT_VALID is 1 (R139). -/
def OutputRegs.announced (o : OutputRegs) : List Raw := if o.pktValid then [o.pktRaw] else []

/-- The packets announced in `n` clocks, in order: those of the state after each clock (R139, R142). -/
def announcements : Nat → State → List Raw
  | 0, _ => []
  | n + 1, s =>
    match step s with
    | .next t => t.outputs.announced ++ announcements n t
    | .fault _ => []
    | .refused _ => []

/-- A word of the NOP operation (R91). -/
def isNopWord (w : InWord) : Bool := !w.getLsbD 2 && !w.getLsbD 1

/-- Two states that agree on every register but the four pulse outputs EV_VALID, PKT_VALID, DUP and INV (R143). -/
structure AgreeButPulses (s t : State) : Prop where
  classifier : s.classifier = t.classifier
  assembler : s.assembler = t.assembler
  dupFilter : s.dupFilter = t.dupFilter
  evCode : s.outputs.evCode = t.outputs.evCode
  pktRaw : s.outputs.pktRaw = t.outputs.pktRaw
  params : s.params = t.params

/-- The four events of a data bit, oldest first (R97). -/
def bitEvents (b : Bool) : List Event :=
  if b then [.highShort, .lowLong, .highShort, .lowShort] else [.highShort, .lowShort, .highShort, .lowLong]

/-- The events of a frame with payload `v`: SYNC, 32 quartets, most significant bit first, `pending` further events,
PAUSE (R101). -/
def frameEvents (v : Raw) (pending : List Event) : List Event :=
  .sync :: ((bitsMsbFirst v).flatMap bitEvents ++ pending ++ [.pause])

/-- A data event (R98). -/
def isDataEvent (e : Event) : Bool := isDataCode e.code

/-- SEARCHING with the window, cursor, accumulator and bit count cleared (R52, R203). -/
def Assembler.idle : Assembler := { mode := .searching, win := ⟨0, 0, 0, 0⟩, winCnt := 0, acc := 0, bitCnt := 0 }

/-- ACCUMULATING with the window, cursor, accumulator and bit count cleared (R205, R215). -/
def Assembler.armed : Assembler := { mode := .accumulating, win := ⟨0, 0, 0, 0⟩, winCnt := 0, acc := 0, bitCnt := 0 }

end Sys2Proof.Machine
end

