-- ==== Sys2Proof/Certificates/Slice0/Obligations.lean ====
section
/-!
DEFINITION. The statements for the provers. Each docstring names the rule of spec/ it formalises. Numerals: event codes
0 NONE, 1 INVALID, 2 HIGH_SHORT, 3 LOW_SHORT, 4 LOW_LONG, 5 SYNC, 6 PAUSE (R94); causes 1 INVALID event, 2 malformed
quartet, 3 overflow (R271). `s.Legal` (R11, the ranges of R33-R43, R51-R55) is the premise under which the spec
defines a tick (93_implementation_defined.md I8). `asmOut` is the model's own field, the results `raw?` and `cause` of
stage 2 (R200; notes/assumptions/4.md).
-/

open Sys2Proof Sys2Proof.Machine

/-! ### Encodings -/

/-- R91: the operation each input word selects, and that exactly one of the four rows fits each word. -/
def Obligations.InputWordSelectsOperation : Prop :=
  ∀ w : InWord,
    (decode (.port w) = .ok
      (if w.getLsbD 2 then .reset
       else if w.getLsbD 1 = false then .nop
       else if w.getLsbD 0 = false then .tick0 else .tick1)) ∧
    (portRows.filter (fun r => r.fits (.port w))).length = 1

/-- R94, R95: the eight event codes, in the source's order, and the codes of the seven events. -/
def Obligations.EventCodesInListingOrder : Prop :=
  (List.range 8).map (fun n => decode (.event (BitVec.ofNat 3 n))) =
    [.ok .evNone, .ok .evInvalid, .ok .evHighShort, .ok .evLowShort, .ok .evLowLong, .ok .evSync, .ok .evPause,
     .ok .evReserved7] ∧
  [Event.none, .invalid, .highShort, .lowShort, .lowLong, .sync, .pause].map Event.code = [0, 1, 2, 3, 4, 5, 6]

/-- R97: where the four slots stand in a quartet word, and the words and bits of the two canonical quartets. -/
def Obligations.CanonicalQuartetWords : Prop :=
  (∀ w : Window, w.word.extractLsb' 9 3 = w.w0 ∧ w.word.extractLsb' 6 3 = w.w1 ∧ w.word.extractLsb' 3 3 = w.w2 ∧
    w.word.extractLsb' 0 3 = w.w3) ∧
  (Window.mk 2 3 2 4).word = 0x4D4 ∧ (Window.mk 2 3 2 4).dataBit = some false ∧ decode (.quartet 0x4D4) = .ok .qBit0 ∧
  (Window.mk 2 4 2 3).word = 0x513 ∧ (Window.mk 2 4 2 3).dataBit = some true ∧ decode (.quartet 0x513) = .ok .qBit1

/-- R98, R109: every other quartet word names no row. -/
def Obligations.OtherQuartetsAreMalformed : Prop :=
  ∀ q : QuartetWord, q ≠ 0x4D4 → q ≠ 0x513 →
    decode (.quartet q) = .error .malformedQuartet ∧ (windowOfWord q).dataBit = none

/-- Decoding the encoded word of an operation gives the operation, the reserved event code among them. -/
def Obligations.DecodeOfEncode : Prop := ∀ i : Instr, decode (encode i) = .ok i

/-- A few words written out from R91, R94 and R97 decode to the operations they stand for. -/
def Obligations.WrittenWordsDecode : Prop :=
  decode (.port 0b101) = .ok .reset ∧ decode (.port 0b001) = .ok .nop ∧ decode (.port 0b010) = .ok .tick0 ∧
  decode (.port 0b011) = .ok .tick1 ∧ decode (.event 0b010) = .ok .evHighShort ∧
  decode (.event 0b101) = .ok .evSync ∧ decode (.quartet 0b010011010100) = .ok .qBit0 ∧
  decode (.quartet 0b010100010011) = .ok .qBit1

/-- R106, R108: the words of any list of directives decode to the operations of the directives, in order. -/
def Obligations.DirectiveWordsDecode : Prop :=
  ∀ ds : List Directive, (directiveWords ds).map (fun w => decode (.port w)) = (ds.flatMap Directive.ops).map .ok

/-- R107: what every pseudo-directive expands to, the bits of FRAME from 31 down to 0; every expansion is TICK words
alone, and a data bit is 38 ticks, START 54, STOP 64 and FRAME 1334, whatever the payload. -/
def Obligations.PseudoDirectiveExpansions : Prop :=
  let words (d : PseudoDirective) : List InWord := directiveWords d.directives
  (words .shortH = List.replicate 4 0b011 ∧ words .shortL = List.replicate 6 0b010 ∧
    words .longL = List.replicate 24 0b010 ∧ words .syncL = List.replicate 50 0b010 ∧
    words .pauseL = List.replicate 60 0b010 ∧ ∀ n, words (.idle n) = List.replicate n 0b010) ∧
  words .bit0 = words .shortH ++ words .shortL ++ words .shortH ++ words .longL ∧
  words .bit1 = words .shortH ++ words .longL ++ words .shortH ++ words .shortL ∧
  words .start = words .shortH ++ words .syncL ∧
  words .stop = words .shortH ++ words .pauseL ∧
  (∀ v : Raw, words (.frame v) =
    words .start ++ (List.range 32).reverse.flatMap (fun i => if v.getLsbD i then words .bit1 else words .bit0) ++
      words .stop) ∧
  (∀ (d : PseudoDirective) (w : InWord), w ∈ words d → w = 0b010 ∨ w = 0b011) ∧
  (words .bit0).length = 38 ∧ (words .bit1).length = 38 ∧ (words .start).length = 54 ∧ (words .stop).length = 64 ∧
  ∀ v : Raw, (words (.frame v)).length = 1334

/-! ### Parameters and reset -/

/-- R10: the defaults, the derived constants at them, and the legality of the default set. -/
def Obligations.DefaultParameterValues : Prop :=
  Params.default = ⟨4, 1, 6, 1, 24, 2, 50, 2, 10, 8004⟩ ∧ Params.default.Legal ∧
  (Params.default.hsMin, Params.default.hsMax) = (3, 5) ∧ (Params.default.lsMin, Params.default.lsMax) = (5, 7) ∧
  (Params.default.llMin, Params.default.llMax) = (22, 26) ∧ (Params.default.syMin, Params.default.syMax) = (48, 52) ∧
  Params.default.endThresh = 60 ∧ Params.default.guardCeil = 70 ∧
  (∀ p : Params, p.hsMin = p.hsNom - p.hsFuzz ∧ p.hsMax = p.hsNom + p.hsFuzz ∧ p.lsMin = p.lsNom - p.lsFuzz ∧
    p.lsMax = p.lsNom + p.lsFuzz ∧ p.llMin = p.llNom - p.llFuzz ∧ p.llMax = p.llNom + p.llFuzz ∧
    p.syMin = p.syNom - p.syFuzz ∧ p.syMax = p.syNom + p.syFuzz ∧
    p.endThresh = p.syMax + p.lsNom + p.llFuzz ∧ p.guardCeil = p.endThresh + p.guardMargin)

/-- The model's choice (notes/assumptions/12.md, after R11): a parameter set that breaks one of the eight constraints of R11
is refused by every operation, RESET and NOP among them. -/
def Obligations.IllegalParametersRefused : Prop :=
  ∀ (i : Instr) (s : State),
    ¬ (1 ≤ s.params.lsMin ∧
       (s.params.lsMin ≤ s.params.lsMax ∧ s.params.lsMax < s.params.llMin) ∧
       (s.params.llMin ≤ s.params.llMax ∧ s.params.llMax < s.params.syMin) ∧
       s.params.syMin ≤ s.params.syMax ∧
       s.params.syMax < s.params.endThresh ∧
       s.params.endThresh < s.params.guardCeil ∧
       (2 ≤ s.params.hsMin ∧ s.params.hsMin ≤ s.params.hsMax) ∧
       (1 ≤ s.params.cooldownTicks ∧ s.params.cooldownTicks ≤ 65535)) →
    ∃ r, exec i s = .refused r

/-- R12, R179: in a legal state the run counters fit their widths, the fewest bits that hold their bounds, 7 and 3 at
the defaults. -/
def Obligations.RunCountersFitTheirWidths : Prop :=
  (∀ s : State, s.Legal →
    s.classifier.zeroRun < 2 ^ s.params.zeroRunWidth ∧ s.classifier.oneRun < 2 ^ s.params.oneRunWidth ∧
    2 ^ s.params.zeroRunWidth ≤ 2 * s.params.guardCeil ∧ 2 ^ s.params.oneRunWidth ≤ 2 * (s.params.hsMax + 1)) ∧
  Params.default.zeroRunWidth = 7 ∧ Params.default.oneRunWidth = 3

/-- R50: the value of every register after reset. -/
def Obligations.ResetRegisterValues : Prop :=
  State.reset.classifier = { zeroRun := 0, oneRun := 0, lastEv := 0 } ∧
  State.reset.assembler = { mode := .searching, win := ⟨0, 0, 0, 0⟩, winCnt := 0, acc := 0, bitCnt := 0 } ∧
  State.reset.dupFilter = { lastRaw := 0, lastValid := false, cdCnt := 0 } ∧
  State.reset.outputs =
    { evCode := 0, evValid := false, pktValid := false, pktRaw := 0, dup := false, inv := 0 } ∧
  State.reset.assembler.mode.bit = 0

/-- R300: RESET gives every register its reset value, from any state, legal or not, and on each of the words `1xx`,
whatever `tick_i` and `sample_i` are; the parameters and the coming words are no registers and stay. -/
def Obligations.ResetClearsEveryRegister : Prop :=
  ∀ s : State, s.params.Legal →
    (∀ (w : InWord) (rest : List Stimulus), w.getLsbD 2 = true →
      step { s with input := .port w :: rest } = exec .reset { s with input := rest }) ∧
    ∃ t, exec .reset s = .next t ∧
      t.classifier = { zeroRun := 0, oneRun := 0, lastEv := 0 } ∧
      t.assembler = { mode := .searching, win := ⟨0, 0, 0, 0⟩, winCnt := 0, acc := 0, bitCnt := 0 } ∧
      t.dupFilter = { lastRaw := 0, lastValid := false, cdCnt := 0 } ∧
      t.outputs = { evCode := 0, evValid := false, pktValid := false, pktRaw := 0, dup := false, inv := 0 } ∧
      t.params = s.params ∧ t.input = s.input

/-- R302: after a RESET word nothing of the state before it is left; two machines with the same parameters agree in
every later clock on the same words, whatever they held before. The words are any stimuli (notes/assumptions/3.md), and
the model's own field `asmOut` is cleared too (notes/assumptions/4.md). -/
def Obligations.ResetErasesHistory : Prop :=
  ∀ (s u : State) (w : InWord) (xs : List Stimulus) (n : Nat), s.params = u.params → s.params.Legal →
    w.getLsbD 2 = true →
    runClocks (n + 1) (s.feed (.port w :: xs)) = runClocks (n + 1) (u.feed (.port w :: xs))

/-! ### The step -/

/-- A step runs the decoded operation, on the state with that word taken from the input. For an input word that is R131 and
R132; that an event code or a quartet word is taken and run, and that the words stand in a list, is the model's choice
(notes/assumptions/3.md, 2.md). -/
def Obligations.StepRunsDecodedOperation : Prop :=
  ∀ (s : State) (x : Stimulus) (rest : List Stimulus) (i : Instr), decode x = .ok i →
    step { s with input := x :: rest } = exec i { s with input := rest }

/-- R132: the dispatch on the input word; reset has priority over tick, and a NOP ignores the sample. -/
def Obligations.StepDispatchesOnInputWord : Prop :=
  ∀ (s : State) (w : InWord) (rest : List Stimulus),
    step { s with input := .port w :: rest } =
      if w.getLsbD 2 then exec .reset { s with input := rest }
      else if w.getLsbD 1 = false then exec .nop { s with input := rest }
      else if w.getLsbD 0 then exec .tick1 { s with input := rest }
      else exec .tick0 { s with input := rest }

/-- The model's choice (notes/assumptions/2.md, after R285): with no word placed no clock edge happens and the state
stays. -/
def Obligations.StepWithoutInputHolds : Prop := ∀ s : State, s.input = [] → step s = .next s

/-- R134: NOP clears the four pulse outputs and changes nothing else, from any state. That the model's own field `asmOut`
stays too is notes/assumptions/4.md. -/
def Obligations.NopClearsOnlyPulses : Prop :=
  ∀ s : State, s.params.Legal →
    exec .nop s = .next
      { s with outputs := { s.outputs with evValid := false, pktValid := false, dup := false, inv := 0 } }

/-- R145: from a legal state the step on any input word gives the registers of the whole-step function of R145, which
is transcribed apart from the stages. -/
def Obligations.StepIsWholeStepFunction : Prop :=
  ∀ (s : State) (w : InWord) (rest : List Stimulus), s.Legal →
    ∃ t, step { s with input := .port w :: rest } = .next t ∧ t.toRegs = wholeStep s.params w s.toRegs ∧
      t.params = s.params ∧ t.input = rest

/-! ### The classifier, in a tick -/

/-- R169-R172: a 0 sample clears ONE_RUN, extends ZERO_RUN up to the ceiling, and its event is PAUSE at the threshold,
INVALID at the ceiling and NONE elsewhere. -/
def Obligations.LowSampleClassified : Prop :=
  ∀ s : State, s.Legal →
    ∃ t, exec .tick0 s = .next t ∧ t.classifier.oneRun = 0 ∧ t.outputs.evValid = true ∧
      (if s.classifier.zeroRun < s.params.guardCeil then
        t.classifier.zeroRun = s.classifier.zeroRun + 1 ∧
        t.outputs.evCode = (if s.classifier.zeroRun + 1 = s.params.endThresh then 6 else 0)
      else t.classifier.zeroRun = s.params.guardCeil ∧ t.outputs.evCode = 1) ∧
      t.classifier.lastEv = (if t.outputs.evCode = 0 then s.classifier.lastEv else t.outputs.evCode)

/-- R161-R164, R166-R168: a 1 sample clears ZERO_RUN, extends ONE_RUN with saturation, and its event is that of the
ended zero run, tried in the order of the windows, else that of the one run. -/
def Obligations.HighSampleClassified : Prop :=
  ∀ s : State, s.Legal →
    ∃ t, exec .tick1 s = .next t ∧ t.classifier.zeroRun = 0 ∧ t.outputs.evValid = true ∧
      t.classifier.oneRun = min (s.classifier.oneRun + 1) (s.params.hsMax + 1) ∧
      t.outputs.evCode =
        (if s.params.lsMin ≤ s.classifier.zeroRun ∧ s.classifier.zeroRun ≤ s.params.lsMax then 3
         else if s.params.llMin ≤ s.classifier.zeroRun ∧ s.classifier.zeroRun ≤ s.params.llMax then 4
         else if s.params.syMin ≤ s.classifier.zeroRun ∧ s.classifier.zeroRun ≤ s.params.syMax then 5
         else if s.params.hsMax < t.classifier.oneRun then 1
         else if (s.params.hsMin ≤ t.classifier.oneRun ∧ t.classifier.oneRun ≤ s.params.hsMax) ∧
            s.classifier.lastEv ≠ 2 then 2
         else 0) ∧
      t.classifier.lastEv = (if t.outputs.evCode = 0 then s.classifier.lastEv else t.outputs.evCode)

/-- R51: both counters are 0 directly after reset; after any tick exactly one is non-zero, the one of the sample. -/
def Obligations.ExactlyOneRunAfterTick : Prop :=
  (State.reset.classifier.zeroRun = 0 ∧ State.reset.classifier.oneRun = 0) ∧
  ∀ s : State, s.Legal →
    (s.classifier.zeroRun = 0 ∨ s.classifier.oneRun = 0) ∧
    (∃ t, exec .tick0 s = .next t ∧ t.classifier.zeroRun ≠ 0 ∧ t.classifier.oneRun = 0) ∧
    (∃ t, exec .tick1 s = .next t ∧ t.classifier.oneRun ≠ 0 ∧ t.classifier.zeroRun = 0)

/-- R56: a HIGH_SHORT is recorded; while LAST_EV holds it, no HIGH_SHORT is produced, and it is held until a tick whose
event is not NONE. -/
def Obligations.HighShortSuppressedWhileLast : Prop :=
  ∀ s : State, s.Legal → ∀ i ∈ [Instr.tick0, .tick1], ∃ t, exec i s = .next t ∧
    (t.outputs.evCode = 2 → t.classifier.lastEv = 2) ∧
    (s.classifier.lastEv = 2 → t.outputs.evCode ≠ 2 ∧ (t.outputs.evCode = 0 → t.classifier.lastEv = 2))

/-- R104, R171, R172, R177: the events of a low run of any length: PAUSE on its END_THRESH-th tick, INVALID on every tick
past GUARD_CEIL, NONE on all others. -/
def Obligations.LowRunEvents : Prop :=
  ∀ (s : State) (n : Nat), s.Legal → s.classifier.zeroRun = 0 → 1 ≤ n →
    ∃ t, runClocks n (s.feedWords (List.replicate n 0b010)) = .next t ∧
      t.classifier.zeroRun = min n s.params.guardCeil ∧
      t.outputs.evCode = (if n = s.params.endThresh then 6 else if s.params.guardCeil < n then 1 else 0)

/-- R104, R166, R167, R177: the events of a high run after its first tick: HIGH_SHORT on its HS_MIN-th tick unless LAST_EV
is HIGH_SHORT by then, INVALID on every tick past HS_MAX, NONE on all others. LAST_EV is not HIGH_SHORT after the first
tick if it was not before, or if the ended low run was in a window. -/
def Obligations.HighRunEvents : Prop :=
  ∀ (s : State) (n : Nat), s.Legal → s.classifier.oneRun = 0 → 2 ≤ n →
    ∃ t, runClocks n (s.feedWords (List.replicate n 0b011)) = .next t ∧
      t.classifier.oneRun = min n (s.params.hsMax + 1) ∧ t.classifier.zeroRun = 0 ∧
      t.outputs.evCode =
        (if s.params.hsMax < n then 1
         else if n = s.params.hsMin ∧
            (s.classifier.lastEv ≠ 2 ∨
             (s.params.lsMin ≤ s.classifier.zeroRun ∧ s.classifier.zeroRun ≤ s.params.lsMax) ∨
             (s.params.llMin ≤ s.classifier.zeroRun ∧ s.classifier.zeroRun ≤ s.params.llMax) ∨
             (s.params.syMin ≤ s.classifier.zeroRun ∧ s.classifier.zeroRun ≤ s.params.syMax)) then 2
         else 0)

/-! ### The assembler, by event -/

/-- R202: in SEARCHING every event but SYNC leaves the state unchanged, with no packet and cause 0. -/
def Obligations.SearchingIgnoresAllButSync : Prop :=
  ∀ s : State, s.Legal → s.assembler.mode = .searching →
    ∀ i ∈ [Instr.evNone, .evInvalid, .evHighShort, .evLowShort, .evLowLong, .evPause],
      exec i s = .next { s with asmOut := ⟨none, 0⟩ }

/-- R206, R217: NONE changes nothing in either mode. -/
def Obligations.NoneEventChangesNothing : Prop :=
  ∀ s : State, s.Legal → exec .evNone s = .next { s with asmOut := ⟨none, 0⟩ }

/-- R214: INVALID in ACCUMULATING returns to SEARCHING and clears the frame, with cause 1 and no packet; nothing outside
the assembler changes. -/
def Obligations.InvalidEventInvalidates : Prop :=
  ∀ s : State, s.Legal → s.assembler.mode = .accumulating →
    exec .evInvalid s = .next
      { s with
        assembler := { mode := .searching, win := ⟨0, 0, 0, 0⟩, winCnt := 0, acc := 0, bitCnt := 0 }
        asmOut := ⟨none, 1⟩ }

/-- R205, R215: SYNC in either mode enters or stays in ACCUMULATING and clears the frame, with cause 0 and no packet. -/
def Obligations.SyncEventRearms : Prop :=
  ∀ s : State, s.Legal →
    exec .evSync s = .next
      { s with
        assembler := { mode := .accumulating, win := ⟨0, 0, 0, 0⟩, winCnt := 0, acc := 0, bitCnt := 0 }
        asmOut := ⟨none, 0⟩ }

/-- R212: PAUSE in ACCUMULATING with 32 bits yields ACC as the raw packet, returns to SEARCHING and clears the frame,
whatever the window holds. -/
def Obligations.PauseEventCompletesFrame : Prop :=
  ∀ s : State, s.Legal → s.assembler.mode = .accumulating → s.assembler.bitCnt = 32 →
    exec .evPause s = .next
      { s with
        assembler := { mode := .searching, win := ⟨0, 0, 0, 0⟩, winCnt := 0, acc := 0, bitCnt := 0 }
        asmOut := ⟨some s.assembler.acc, 0⟩ }

/-- R213: PAUSE in ACCUMULATING with fewer than 32 bits changes nothing. -/
def Obligations.EarlyPauseEventIgnored : Prop :=
  ∀ s : State, s.Legal → s.assembler.mode = .accumulating → s.assembler.bitCnt.toNat < 32 →
    exec .evPause s = .next { s with asmOut := ⟨none, 0⟩ }

/-- R207: a data event in ACCUMULATING that does not fill the window is written to the slot at the cursor, and the
cursor moves on; nothing else changes. -/
def Obligations.DataEventAppended : Prop :=
  ∀ s : State, s.Legal → s.assembler.mode = .accumulating → s.assembler.winCnt.toNat < 3 →
    ∀ ic ∈ [(Instr.evHighShort, (2 : EvCode)), (.evLowShort, 3), (.evLowLong, 4)],
      exec ic.1 s = .next
        { s with
          assembler :=
            { s.assembler with
              win :=
                ⟨if s.assembler.winCnt = 0 then ic.2 else s.assembler.win.w0,
                 if s.assembler.winCnt = 1 then ic.2 else s.assembler.win.w1,
                 if s.assembler.winCnt = 2 then ic.2 else s.assembler.win.w2,
                 s.assembler.win.w3⟩
              winCnt := s.assembler.winCnt + 1 }
          asmOut := ⟨none, 0⟩ }

/-- R209: the event that completes a canonical quartet with BIT_CNT below 32 shifts the data bit in at bit 0, counts it
and clears the window; MODE stays, with no packet and cause 0. -/
def Obligations.MatchedQuartetShiftsBitIn : Prop :=
  ∀ s : State, s.Legal → s.assembler.mode = .accumulating → s.assembler.winCnt = 3 → s.assembler.bitCnt.toNat < 32 →
    (s.assembler.win.w0 = 2 ∧ s.assembler.win.w1 = 3 ∧ s.assembler.win.w2 = 2 →
      exec .evLowLong s = .next
        { s with
          assembler :=
            { mode := .accumulating, win := ⟨0, 0, 0, 0⟩, winCnt := 0,
              acc := s.assembler.acc.extractLsb' 0 31 ++ 0#1, bitCnt := s.assembler.bitCnt + 1 }
          asmOut := ⟨none, 0⟩ }) ∧
    (s.assembler.win.w0 = 2 ∧ s.assembler.win.w1 = 4 ∧ s.assembler.win.w2 = 2 →
      exec .evLowShort s = .next
        { s with
          assembler :=
            { mode := .accumulating, win := ⟨0, 0, 0, 0⟩, winCnt := 0,
              acc := s.assembler.acc.extractLsb' 0 31 ++ 1#1, bitCnt := s.assembler.bitCnt + 1 }
          asmOut := ⟨none, 0⟩ })

/-- R210: the event that completes a canonical quartet with BIT_CNT = 32 invalidates with cause 3. -/
def Obligations.ThirtyThirdBitOverflows : Prop :=
  ∀ s : State, s.Legal → s.assembler.mode = .accumulating → s.assembler.winCnt = 3 → s.assembler.bitCnt = 32 →
    ∀ ic ∈ [(Instr.evLowLong, (3 : EvCode)), (.evLowShort, 4)],
      s.assembler.win.w0 = 2 → s.assembler.win.w1 = ic.2 → s.assembler.win.w2 = 2 →
      exec ic.1 s = .next
        { s with
          assembler := { mode := .searching, win := ⟨0, 0, 0, 0⟩, winCnt := 0, acc := 0, bitCnt := 0 }
          asmOut := ⟨none, 3⟩ }

/-- R211: the event that fills the window with a quartet that is neither canonical one invalidates with cause 2, at any
bit count, 32 among them. -/
def Obligations.MalformedQuartetInvalidates : Prop :=
  ∀ s : State, s.Legal → s.assembler.mode = .accumulating → s.assembler.winCnt = 3 →
    ∀ ic ∈ [(Instr.evHighShort, (2 : EvCode)), (.evLowShort, 3), (.evLowLong, 4)],
      ¬ (s.assembler.win.w0 = 2 ∧ s.assembler.win.w1 = 3 ∧ s.assembler.win.w2 = 2 ∧ ic.2 = 4) →
      ¬ (s.assembler.win.w0 = 2 ∧ s.assembler.win.w1 = 4 ∧ s.assembler.win.w2 = 2 ∧ ic.2 = 3) →
      exec ic.1 s = .next
        { s with
          assembler := { mode := .searching, win := ⟨0, 0, 0, 0⟩, winCnt := 0, acc := 0, bitCnt := 0 }
          asmOut := ⟨none, 2⟩ }

/-- R224: event code 7 is refused in every state. -/
def Obligations.ReservedEventRefused : Prop := ∀ s : State, exec .evReserved7 s = .refused .reservedEventCode

/-- The model's choice for a quartet presented alone (notes/assumptions/3.md, 8.md, after R208-R210, which interpret a window
that fills): in ACCUMULATING a canonical quartet, whatever the window holds, clears the window and shifts its bit in
below 32 bits or overflows at 32. -/
def Obligations.QuartetOperationShiftsOrOverflows : Prop :=
  ∀ s : State, s.Legal → s.assembler.mode = .accumulating →
    ∀ ib ∈ [(Instr.qBit0, 0#1), (.qBit1, 1#1)],
      exec ib.1 s = .next
        (if s.assembler.bitCnt.toNat < 32 then
          { s with
            assembler :=
              { mode := .accumulating, win := ⟨0, 0, 0, 0⟩, winCnt := 0,
                acc := s.assembler.acc.extractLsb' 0 31 ++ ib.2, bitCnt := s.assembler.bitCnt + 1 }
            asmOut := ⟨none, 0⟩ }
        else
          { s with
            assembler := { mode := .searching, win := ⟨0, 0, 0, 0⟩, winCnt := 0, acc := 0, bitCnt := 0 }
            asmOut := ⟨none, 3⟩ })

/-- The model's choice (notes/assumptions/8.md, after R202): in SEARCHING a quartet is not interpreted. -/
def Obligations.QuartetOperationIgnoredInSearching : Prop :=
  ∀ s : State, s.Legal → s.assembler.mode = .searching →
    ∀ i ∈ [Instr.qBit0, .qBit1], exec i s = .next { s with asmOut := ⟨none, 0⟩ }

/-- R208: the fourth event of a canonical quartet does what the quartet's own operation does. That the quartet and the
event are presented alone is the model's choice (notes/assumptions/3.md). -/
def Obligations.FourthEventIsItsQuartet : Prop :=
  ∀ s : State, s.assembler.mode = .accumulating → s.assembler.winCnt = 3 →
    s.assembler.win.w0 = 2 → s.assembler.win.w2 = 2 →
    (s.assembler.win.w1 = 3 → exec .evLowLong s = exec .qBit0 s) ∧
    (s.assembler.win.w1 = 4 → exec .evLowShort s = exec .qBit1 s)

/-- The model's choice for a quartet word presented alone (notes/assumptions/9.md, after R98, R109, R211, R202): a step on
one that is neither canonical invalidates the frame with cause 2 in ACCUMULATING, and is ignored in SEARCHING. -/
def Obligations.MalformedQuartetWordInvalidatesOrIsIgnored : Prop :=
  ∀ (s : State) (q : QuartetWord) (rest : List Stimulus), s.Legal → q ≠ 0x4D4 → q ≠ 0x513 →
    step { s with input := .quartet q :: rest } = .next
      (if s.assembler.mode = .accumulating then
        { s with
          assembler := { mode := .searching, win := ⟨0, 0, 0, 0⟩, winCnt := 0, acc := 0, bitCnt := 0 }
          asmOut := ⟨none, 2⟩
          input := rest }
      else { s with asmOut := ⟨none, 0⟩, input := rest })

/-- R226, R101, R73: SYNC, the 32 quartets of any payload, first bit most significant, up to three further data events,
then PAUSE, give exactly that payload as the raw packet, whatever frame was in progress (R227). The events are presented
alone, by the model's choice (notes/assumptions/3.md), so nothing outside the assembler changes (10.md). -/
def Obligations.FrameEventsYieldPayload : Prop :=
  ∀ (s : State) (v : Raw) (pending : List Event) (rest : List Stimulus), s.Legal → pending.length ≤ 3 →
    (∀ e ∈ pending, isDataEvent e = true) →
    runClocks (130 + pending.length)
        (s.feed ((frameEvents v pending).map (fun e => Stimulus.event e.code) ++ rest)) = .next
      { s with
        assembler := { mode := .searching, win := ⟨0, 0, 0, 0⟩, winCnt := 0, acc := 0, bitCnt := 0 }
        asmOut := ⟨some v, 0⟩
        input := rest }

/-! ### The tick: the stages together -/

/-- R133, R200: a tick runs stage 2 on the event it reports: its assembler, its cause and its raw packet are those of that
event's own operation on the same state, presented alone by the model's choice (notes/assumptions/3.md). -/
def Obligations.TickRunsItsEvent : Prop :=
  ∀ s : State, s.Legal → ∀ i ∈ [Instr.tick0, .tick1], ∃ t e u,
    exec i s = .next t ∧ decode (.event t.outputs.evCode) = .ok e ∧ exec e s = .next u ∧
    t.assembler = u.assembler ∧ t.asmOut = u.asmOut ∧ t.outputs.inv = u.asmOut.cause

/-- R135: a tick with a low sample never appends: it leaves the assembler as it is or returns it, cleared, to
SEARCHING, by INVALID or by PAUSE with 32 bits. -/
def Obligations.LowTickNeverAppends : Prop :=
  ∀ s : State, s.Legal → ∃ t, exec .tick0 s = .next t ∧
    (t.assembler = s.assembler ∨
     (s.assembler.mode = .accumulating ∧ t.assembler = Assembler.idle ∧
      ((t.outputs.evCode = 1 ∧ t.outputs.inv = 1) ∨
       (t.outputs.evCode = 6 ∧ s.assembler.bitCnt = 32 ∧ t.outputs.inv = 0))))

/-- R244: the tick that completes a frame equal to the stored value suppresses it: DUP is 1, PKT_RAW stays and the
countdown is not reloaded. The compare is after stage 0: the countdown does not expire in this tick. -/
def Obligations.RepeatedFrameSuppressed : Prop :=
  ∀ s : State, s.Legal → s.assembler.mode = .accumulating → s.assembler.bitCnt = 32 →
    s.classifier.zeroRun + 1 = s.params.endThresh →
    s.dupFilter.lastValid = true → s.dupFilter.cdCnt ≠ 1 → s.dupFilter.lastRaw = s.assembler.acc →
    ∃ t, exec .tick0 s = .next t ∧
      t.outputs = { evCode := 6, evValid := true, pktValid := false, pktRaw := s.outputs.pktRaw, dup := true, inv := 0 } ∧
      t.dupFilter = { s.dupFilter with cdCnt := s.dupFilter.cdCnt - 1 } ∧
      t.assembler = { mode := .searching, win := ⟨0, 0, 0, 0⟩, winCnt := 0, acc := 0, bitCnt := 0 }

/-- R245, R246: the tick that completes a frame when no value is stored, the stored value expires in this tick, or it
differs, accepts it: PKT_VALID is 1, PKT_RAW and LAST_RAW are ACC, and the countdown is reloaded. -/
def Obligations.NewFrameAccepted : Prop :=
  ∀ s : State, s.Legal → s.assembler.mode = .accumulating → s.assembler.bitCnt = 32 →
    s.classifier.zeroRun + 1 = s.params.endThresh →
    (s.dupFilter.lastValid = false ∨ s.dupFilter.cdCnt = 1 ∨ s.dupFilter.lastRaw ≠ s.assembler.acc) →
    ∃ t, exec .tick0 s = .next t ∧
      t.outputs =
        { evCode := 6, evValid := true, pktValid := true, pktRaw := s.assembler.acc, dup := false, inv := 0 } ∧
      t.dupFilter =
        { lastRaw := s.assembler.acc, lastValid := true, cdCnt := BitVec.ofNat 16 s.params.cooldownTicks } ∧
      t.assembler = { mode := .searching, win := ⟨0, 0, 0, 0⟩, winCnt := 0, acc := 0, bitCnt := 0 }

/-- R241, R243, R136: a tick that completes no frame, every TICK1 among them, announces nothing and only counts the
cool-down down, clearing the stored value when it reaches 0. -/
def Obligations.OtherTicksOnlyCountDown : Prop :=
  ∀ s : State, s.Legal → ∀ i ∈ [Instr.tick0, .tick1],
    (i = .tick0 → ¬ (s.assembler.mode = .accumulating ∧ s.assembler.bitCnt = 32 ∧
      s.classifier.zeroRun + 1 = s.params.endThresh)) →
    ∃ t, exec i s = .next t ∧ t.outputs.pktValid = false ∧ t.outputs.dup = false ∧
      t.outputs.pktRaw = s.outputs.pktRaw ∧
      t.dupFilter =
        (if s.dupFilter.cdCnt = 0 then s.dupFilter
         else if s.dupFilter.cdCnt = 1 then { lastRaw := 0, lastValid := false, cdCnt := 0 }
         else { s.dupFilter with cdCnt := s.dupFilter.cdCnt - 1 })

/-- R249: from a state whose record was just reloaded, after any ticks in which nothing is accepted, the countdown
stands at COOLDOWN_TICKS less their number, and at 0 with nothing stored from COOLDOWN_TICKS ticks on; and a next tick
that completes a frame with the stored value suppresses it if it is before the COOLDOWN_TICKS-th tick since the
reload, and accepts it, with a reload, if it is that tick or a later one. NOPs are not counted (R143). -/
def Obligations.SuppressionWindow : Prop :=
  ∀ (s : State) (samples : List Bool), s.Legal →
    s.dupFilter.lastValid = true → s.dupFilter.cdCnt.toNat = s.params.cooldownTicks →
    announcements samples.length (s.feedWords (samples.map tickWord)) = [] →
    ∃ u, runClocks samples.length (s.feedWords (samples.map tickWord)) = .next u ∧
      u.dupFilter =
        (if samples.length < s.params.cooldownTicks then
          { s.dupFilter with cdCnt := BitVec.ofNat 16 (s.params.cooldownTicks - samples.length) }
        else { lastRaw := 0, lastValid := false, cdCnt := 0 }) ∧
      (u.assembler.mode = .accumulating → u.assembler.bitCnt = 32 → u.assembler.acc = s.dupFilter.lastRaw →
        u.classifier.zeroRun + 1 = s.params.endThresh →
        ∃ t, exec .tick0 u = .next t ∧
          (if samples.length + 1 < s.params.cooldownTicks then
            t.outputs.dup = true ∧ t.outputs.pktValid = false ∧ t.outputs.pktRaw = u.outputs.pktRaw ∧
            t.dupFilter =
              { s.dupFilter with cdCnt := BitVec.ofNat 16 (s.params.cooldownTicks - (samples.length + 1)) }
          else
            t.outputs.dup = false ∧ t.outputs.pktValid = true ∧ t.outputs.pktRaw = s.dupFilter.lastRaw ∧
            t.dupFilter = s.dupFilter))

/-- R141, R272, R276: in a tick a packet and a duplicate are never announced together, neither is announced with an
invalidation, both come with PAUSE on a low sample alone, and causes 2 and 3 come from a high sample alone. -/
def Obligations.OutcomesOfATickExclude : Prop :=
  ∀ s : State, s.Legal →
    (∃ t, exec .tick0 s = .next t ∧ ¬ (t.outputs.pktValid = true ∧ t.outputs.dup = true) ∧
      (t.outputs.inv = 0 ∨ t.outputs.inv = 1) ∧
      (t.outputs.inv ≠ 0 → t.outputs.pktValid = false ∧ t.outputs.dup = false) ∧
      (t.outputs.pktValid = true ∨ t.outputs.dup = true → t.outputs.evCode = 6)) ∧
    (∃ t, exec .tick1 s = .next t ∧ t.outputs.pktValid = false ∧ t.outputs.dup = false)

/-- R277: an invalidation in a tick comes from ACCUMULATING, leaves SEARCHING and a cleared frame, and does not disturb
the duplicate record, whose countdown goes on. -/
def Obligations.InvalidationIsPrecise : Prop :=
  ∀ (i : Instr) (s t : State), i = .tick0 ∨ i = .tick1 → exec i s = .next t → t.outputs.inv ≠ 0 →
    s.assembler.mode = .accumulating ∧
    t.assembler = { mode := .searching, win := ⟨0, 0, 0, 0⟩, winCnt := 0, acc := 0, bitCnt := 0 } ∧
    t.outputs.pktRaw = s.outputs.pktRaw ∧
    t.dupFilter.cdCnt = (if s.dupFilter.cdCnt = 0 then 0 else s.dupFilter.cdCnt - 1) ∧
    (t.dupFilter.cdCnt ≠ 0 → t.dupFilter = { s.dupFilter with cdCnt := s.dupFilter.cdCnt - 1 })

/-! ### Frames of the operations -/

/-- The model's choice (notes/assumptions/10.md, 3.md): an event or a quartet presented alone changes nothing outside the
assembler and its two results (those of stage 2, R200). -/
def Obligations.EventsAndQuartetsTouchOnlyAssembler : Prop :=
  ∀ i ∈ [Instr.evNone, .evInvalid, .evHighShort, .evLowShort, .evLowLong, .evSync, .evPause, .qBit0, .qBit1],
    ∀ s t : State, exec i s = .next t →
      t.classifier = s.classifier ∧ t.dupFilter = s.dupFilter ∧ t.outputs = s.outputs ∧ t.params = s.params ∧
      t.input = s.input

/-- R57, R316: no operation writes the parameters or the coming words, which stand in the state by the model's choice
(notes/assumptions/1.md, 2.md). -/
def Obligations.OperationsKeepParametersAndInput : Prop :=
  ∀ (i : Instr) (s t : State), exec i s = .next t → t.params = s.params ∧ t.input = s.input

/-- The model's choice of what 93_implementation_defined.md I8 covers: a tick, an event or a quartet from an illegal register
state is a fault (notes/assumptions/6.md, against R144 and R270, which speak of reachable states), a CD_CNT above
COOLDOWN_TICKS among them (13.md), and for an event or a quartet alone too when the classifier or the filter is what is
illegal (10.md). -/
def Obligations.UnreachableStateFaults : Prop :=
  ∀ s : State, s.params.Legal → ¬ s.toRegs.Legal s.params →
    ∀ i ∈ [Instr.tick0, .tick1, .evNone, .evInvalid, .evHighShort, .evLowShort, .evLowLong, .evSync, .evPause,
      .qBit0, .qBit1], exec i s = .fault .unreachableState

/-! ### The ports -/

/-- R251, and the outputs of R92: the field ports are the slices of PKT_RAW, in order and without gap; every other port
shows the output register of its name. -/
def Obligations.OutputPortsShowRegisters : Prop :=
  ∀ o : OutputRegs,
    (ports o).deviceId = o.pktRaw.extractLsb' 6 26 ∧ (ports o).group = o.pktRaw.extractLsb' 5 1 ∧
    (ports o).onOff = o.pktRaw.extractLsb' 4 1 ∧ (ports o).channel = o.pktRaw.extractLsb' 2 2 ∧
    (ports o).unit = o.pktRaw.extractLsb' 0 2 ∧
    (ports o).deviceId ++ (ports o).group ++ (ports o).onOff ++ (ports o).channel ++ (ports o).unit = o.pktRaw ∧
    (ports o).evValid = o.evValid ∧ (ports o).evCode = o.evCode ∧ (ports o).pktValid = o.pktValid ∧
    (ports o).pktRaw = o.pktRaw ∧ (ports o).dup = o.dup ∧ (ports o).inv = o.inv

/-- R253: the source's worked example. -/
def Obligations.PacketExample : Prop :=
  packetOf 0x00000001 = { deviceId := 0, group := 0, onOff := 0, channel := 0, unit := 1 }

/-! ### The whole machine -/

/-- The state after reset meets the invariant. -/
def Obligations.ResetMeetsInvariant : Prop := State.reset.Inv

/-- Every step, on any stimulus, keeps the invariant: legal parameters, the legal ranges of R33-R43, the invariants of
R51-R55 and the consistency of the outputs. Event codes and quartets are stimuli by the model's choice
(notes/assumptions/3.md). -/
def Obligations.StepKeepsInvariant : Prop :=
  ∀ s t : State, s.Inv → step s = .next t → t.Inv

/-- Every state reachable from reset at any legal parameters is legal (the ranges of R33-R43 and the invariants R51-R55,
and the parameters still `p`), and R52-R55 are spelled out. The runs take any stimuli: input words, and, by the
model's choice, event codes and quartets presented alone (notes/assumptions/3.md); that CD_CNT is in range is part of
`Legal` by notes/assumptions/13.md. -/
def Obligations.ReachableStatesAreLegal : Prop :=
  ∀ (p : Params) (xs : List Stimulus) (n : Nat) (t : State), p.Legal →
    runClocks n { State.reset with params := p, input := xs } = .next t →
    t.Legal ∧ t.params = p ∧
    (t.assembler.mode = .searching →
      t.assembler.winCnt = 0 ∧ t.assembler.win = ⟨0, 0, 0, 0⟩ ∧ t.assembler.acc = 0 ∧ t.assembler.bitCnt = 0) ∧
    (∀ k : Fin 4, if k.val < t.assembler.winCnt.toNat
      then t.assembler.win.get k = 2 ∨ t.assembler.win.get k = 3 ∨ t.assembler.win.get k = 4
      else t.assembler.win.get k = 0) ∧
    (t.assembler.bitCnt.toNat ≤ 32 ∧
      (t.assembler.bitCnt.toNat < 32 → t.assembler.acc.toNat < 2 ^ t.assembler.bitCnt.toNat)) ∧
    ((t.dupFilter.lastValid = true ↔ t.dupFilter.cdCnt ≠ 0) ∧ (t.dupFilter.lastValid = false → t.dupFilter.lastRaw = 0))

/-- R144, R270, R317: from a state that meets the invariant, any input words of the core run for any number of clocks
without a fault or a refusal. -/
def Obligations.CoreNeverStops : Prop :=
  ∀ (s : State) (ws : List InWord) (n : Nat), s.Inv → ∃ t, runClocks n (s.feedWords ws) = .next t

/-- SRC-5, with R107, R226, R241-R246: the 1334 words of FRAME v, run on the composed core at the default parameters from
any legal state, announce v once, with the last word, or nothing if v is stored and its countdown outlasts the frame;
then the last word reports the duplicate. The assembler ends in SEARCHING and no frame is invalidated by the last word. -/
def Obligations.FrameWordsAnnouncePayload : Prop :=
  ∀ (s : State) (v : Raw), s.Legal → s.params = .default →
    let frame : State := s.feedWords (directiveWords (PseudoDirective.frame v).directives)
    let repeated : Bool := s.dupFilter.lastValid && s.dupFilter.lastRaw == v && decide (1334 < s.dupFilter.cdCnt.toNat)
    announcements 1334 frame = (if repeated then [] else [v]) ∧
    ∃ t, runClocks 1334 frame = .next t ∧
      t.outputs =
        { evCode := 6, evValid := true, pktValid := !repeated, pktRaw := if repeated then s.outputs.pktRaw else v,
          dup := repeated, inv := 0 } ∧
      t.assembler = { mode := .searching, win := ⟨0, 0, 0, 0⟩, winCnt := 0, acc := 0, bitCnt := 0 }

/-- R143: with the NOP words erased, every register but the four pulse outputs takes the same value, after any words;
and all registers do where the last word is no NOP. -/
def Obligations.NopsCanBeErased : Prop :=
  ∀ (s : State) (ws : List InWord), s.Legal →
    ∃ t u, runClocks ws.length (s.feedWords ws) = .next t ∧
      runClocks (ws.filter (fun w => !isNopWord w)).length
        (s.feedWords (ws.filter (fun w => !isNopWord w))) = .next u ∧
      AgreeButPulses t u ∧
      (∀ w, ws.getLast? = some w → isNopWord w = false → t.toRegs = u.toRegs)
end

