-- ==== Sys2Proof/Laws/State.lean ====
section
/-!
SUPPORT. One lemma per field of the state for each named update, so that no later proof unfolds a record update.
-/

namespace Sys2Proof.Machine

/-! ### RESET's state (R300) -/

@[simp] theorem resetState_classifier (s : State) : (resetState s).classifier = Regs.reset.classifier := rfl
@[simp] theorem resetState_assembler (s : State) : (resetState s).assembler = Regs.reset.assembler := rfl
@[simp] theorem resetState_dupFilter (s : State) : (resetState s).dupFilter = Regs.reset.dupFilter := rfl
@[simp] theorem resetState_outputs (s : State) : (resetState s).outputs = Regs.reset.outputs := rfl
@[simp] theorem resetState_params (s : State) : (resetState s).params = s.params := rfl
@[simp] theorem resetState_asmOut (s : State) : (resetState s).asmOut = .quiet := rfl
@[simp] theorem resetState_input (s : State) : (resetState s).input = s.input := rfl

/-! ### The state after an idle clock (R134) -/

@[simp] theorem idleState_classifier (s : State) : (idleState s).classifier = s.classifier := rfl
@[simp] theorem idleState_assembler (s : State) : (idleState s).assembler = s.assembler := rfl
@[simp] theorem idleState_dupFilter (s : State) : (idleState s).dupFilter = s.dupFilter := rfl
@[simp] theorem idleState_outputs (s : State) : (idleState s).outputs = s.outputs.clearPulses := rfl
@[simp] theorem idleState_params (s : State) : (idleState s).params = s.params := rfl
@[simp] theorem idleState_asmOut (s : State) : (idleState s).asmOut = s.asmOut := rfl
@[simp] theorem idleState_input (s : State) : (idleState s).input = s.input := rfl

/-! ### The state after a tick (R133) -/

@[simp] theorem tickState_classifier (b : Bool) (s : State) :
    (tickState b s).classifier = (classify s.params s.classifier b).2 := rfl
@[simp] theorem tickState_assembler (b : Bool) (s : State) :
    (tickState b s).assembler = (advance s.assembler (classify s.params s.classifier b).1).2 := rfl
@[simp] theorem tickState_dupFilter (b : Bool) (s : State) :
    (tickState b s).dupFilter = (filterRaw s.params (advance s.assembler (classify s.params s.classifier b).1).1.raw (countdown s.dupFilter)).dupFilter := rfl
@[simp] theorem tickState_outputs (b : Bool) (s : State) :
    (tickState b s).outputs = (tick s.params b s.toRegs).2.outputs := rfl
@[simp] theorem tickState_params (b : Bool) (s : State) : (tickState b s).params = s.params := rfl
@[simp] theorem tickState_asmOut (b : Bool) (s : State) :
    (tickState b s).asmOut = (advance s.assembler (classify s.params s.classifier b).1).1 := rfl
@[simp] theorem tickState_input (b : Bool) (s : State) : (tickState b s).input = s.input := rfl

/-! ### The state after stage 2 alone (R200) -/

@[simp] theorem assemblerState_classifier (f : Assembler → Stage2Out × Assembler) (s : State) :
    (assemblerState f s).classifier = s.classifier := rfl
@[simp] theorem assemblerState_assembler (f : Assembler → Stage2Out × Assembler) (s : State) :
    (assemblerState f s).assembler = (f s.assembler).2 := rfl
@[simp] theorem assemblerState_dupFilter (f : Assembler → Stage2Out × Assembler) (s : State) :
    (assemblerState f s).dupFilter = s.dupFilter := rfl
@[simp] theorem assemblerState_outputs (f : Assembler → Stage2Out × Assembler) (s : State) :
    (assemblerState f s).outputs = s.outputs := rfl
@[simp] theorem assemblerState_params (f : Assembler → Stage2Out × Assembler) (s : State) :
    (assemblerState f s).params = s.params := rfl
@[simp] theorem assemblerState_asmOut (f : Assembler → Stage2Out × Assembler) (s : State) :
    (assemblerState f s).asmOut = (f s.assembler).1 := rfl
@[simp] theorem assemblerState_input (f : Assembler → Stage2Out × Assembler) (s : State) :
    (assemblerState f s).input = s.input := rfl

/-! ### The state with input words placed -/

@[simp] theorem feed_classifier (s : State) (xs : List Stimulus) : (s.feed xs).classifier = s.classifier := rfl
@[simp] theorem feed_assembler (s : State) (xs : List Stimulus) : (s.feed xs).assembler = s.assembler := rfl
@[simp] theorem feed_dupFilter (s : State) (xs : List Stimulus) : (s.feed xs).dupFilter = s.dupFilter := rfl
@[simp] theorem feed_outputs (s : State) (xs : List Stimulus) : (s.feed xs).outputs = s.outputs := rfl
@[simp] theorem feed_params (s : State) (xs : List Stimulus) : (s.feed xs).params = s.params := rfl
@[simp] theorem feed_asmOut (s : State) (xs : List Stimulus) : (s.feed xs).asmOut = s.asmOut := rfl
@[simp] theorem feed_input (s : State) (xs : List Stimulus) : (s.feed xs).input = xs := rfl

/-! ### The output registers -/

@[simp] theorem clearPulses_evCode (o : OutputRegs) : o.clearPulses.evCode = o.evCode := rfl
@[simp] theorem clearPulses_pktRaw (o : OutputRegs) : o.clearPulses.pktRaw = o.pktRaw := rfl
@[simp] theorem clearPulses_evValid (o : OutputRegs) : o.clearPulses.evValid = false := rfl
@[simp] theorem clearPulses_pktValid (o : OutputRegs) : o.clearPulses.pktValid = false := rfl
@[simp] theorem clearPulses_dup (o : OutputRegs) : o.clearPulses.dup = false := rfl
@[simp] theorem clearPulses_inv (o : OutputRegs) : o.clearPulses.inv = 0 := rfl
@[simp] theorem afterTick_evCode (o : OutputRegs) (ev : EvCode) (c : CauseCode) (d : Bool) (r : Option Raw) :
    (o.afterTick ev c d r).evCode = ev := rfl
@[simp] theorem afterTick_evValid (o : OutputRegs) (ev : EvCode) (c : CauseCode) (d : Bool) (r : Option Raw) :
    (o.afterTick ev c d r).evValid = true := rfl
@[simp] theorem afterTick_pktValid (o : OutputRegs) (ev : EvCode) (c : CauseCode) (d : Bool) (r : Option Raw) :
    (o.afterTick ev c d r).pktValid = r.isSome := rfl
@[simp] theorem afterTick_pktRaw (o : OutputRegs) (ev : EvCode) (c : CauseCode) (d : Bool) (r : Option Raw) :
    (o.afterTick ev c d r).pktRaw = r.getD o.pktRaw := rfl
@[simp] theorem afterTick_dup (o : OutputRegs) (ev : EvCode) (c : CauseCode) (d : Bool) (r : Option Raw) :
    (o.afterTick ev c d r).dup = d := rfl
@[simp] theorem afterTick_inv (o : OutputRegs) (ev : EvCode) (c : CauseCode) (d : Bool) (r : Option Raw) :
    (o.afterTick ev c d r).inv = c := rfl

/-! ### The assembler's registers after CLEAR (R204) -/

@[simp] theorem clear_mode (a : Assembler) : a.clear.mode = a.mode := rfl
@[simp] theorem clear_win (a : Assembler) : a.clear.win = .empty := rfl
@[simp] theorem clear_winCnt (a : Assembler) : a.clear.winCnt = 0 := rfl
@[simp] theorem clear_acc (a : Assembler) : a.clear.acc = 0 := rfl
@[simp] theorem clear_bitCnt (a : Assembler) : a.clear.bitCnt = 0 := rfl

end Sys2Proof.Machine
end

