-- ==== Sys2Proof/Laws/Ops.lean ====
section
/-!
SUPPORT. For each shared operation, once, everything it can do. Later proofs cite these lemmas instead of unfolding the
operation.
-/

namespace Sys2Proof.Machine

/-! ### How a meaning goes on -/

/-- `ifConfigured` goes on exactly at legal parameters (R11). -/
theorem ifConfigured_next {s t : State} (h : s.params.Legal) : ifConfigured s t = .next t := by
  simp only [ifConfigured, if_pos h]

/-- `ifConfigured` goes on nowhere else. -/
theorem ifConfigured_eq_next {s t u : State} (h : ifConfigured s t = .next u) : s.params.Legal ∧ u = t := by
  unfold ifConfigured at h
  split at h
  · rename_i hp
    cases h
    exact ⟨hp, rfl⟩
  · cases h

/-- `ifReachable` goes on at a legal state. -/
theorem ifReachable_next {s t : State} (h : s.Legal) : ifReachable s t = .next t := by
  simp only [ifReachable, if_pos h.1, if_pos h.2]

/-- `ifReachable` goes on nowhere else. -/
theorem ifReachable_eq_next {s t u : State} (h : ifReachable s t = .next u) : s.Legal ∧ u = t := by
  unfold ifReachable at h
  split at h
  · rename_i hp
    split at h
    · rename_i hr
      cases h
      exact ⟨⟨hp, hr⟩, rfl⟩
    · cases h
  · cases h

/-! ### Stage 1 -/

/-- The low windows of R162-R164, tried in order. -/
theorem endedLowEvent_cases (p : Params) (z : Nat) :
    (endedLowEvent p z = some .lowShort ∧ p.lsMin ≤ z ∧ z ≤ p.lsMax) ∨
    (endedLowEvent p z = some .lowLong ∧ p.llMin ≤ z ∧ z ≤ p.llMax) ∨
    (endedLowEvent p z = some .sync ∧ p.syMin ≤ z ∧ z ≤ p.syMax) ∨
    (endedLowEvent p z = none ∧ ¬ (p.lsMin ≤ z ∧ z ≤ p.lsMax) ∧ ¬ (p.llMin ≤ z ∧ z ≤ p.llMax) ∧
      ¬ (p.syMin ≤ z ∧ z ≤ p.syMax)) := by
  unfold endedLowEvent inWindow
  simp only [Bool.and_eq_true, decide_eq_true_eq]
  by_cases h1 : p.lsMin ≤ z ∧ z ≤ p.lsMax
  · exact .inl ⟨if_pos h1, h1⟩
  · by_cases h2 : p.llMin ≤ z ∧ z ≤ p.llMax
    · exact .inr (.inl ⟨by rw [if_neg h1, if_pos h2], h2⟩)
    · by_cases h3 : p.syMin ≤ z ∧ z ≤ p.syMax
      · exact .inr (.inr (.inl ⟨by rw [if_neg h1, if_neg h2, if_pos h3], h3⟩))
      · exact .inr (.inr (.inr ⟨by rw [if_neg h1, if_neg h2, if_neg h3], h1, h2, h3⟩))

/-- No low window holds a run of length 0 (R162: "`z = 0` (a continuing high run) never matches"). -/
theorem endedLowEvent_zero {p : Params} (h : p.Legal) : endedLowEvent p 0 = none := by
  obtain ⟨h1, h2, h3, -⟩ := h
  rcases endedLowEvent_cases p 0 with ⟨-, h, -⟩ | ⟨-, h, -⟩ | ⟨-, h, -⟩ | ⟨h, -⟩
  · omega
  · omega
  · omega
  · exact h

/-- The one-run analysis (R166-R168). -/
theorem highRunEvent_cases (p : Params) (o : Nat) (last : EvCode) :
    (highRunEvent p o last = .invalid ∧ p.hsMax < o) ∨
    (highRunEvent p o last = .highShort ∧ p.hsMin ≤ o ∧ o ≤ p.hsMax ∧ last ≠ Event.highShort.code) ∨
    (highRunEvent p o last = .none ∧ o ≤ p.hsMax ∧ (o < p.hsMin ∨ last = Event.highShort.code)) := by
  unfold highRunEvent inWindow
  simp only [Bool.and_eq_true, decide_eq_true_eq, bne_iff_ne]
  by_cases h1 : o > p.hsMax
  · exact .inl ⟨if_pos h1, h1⟩
  · by_cases h2 : (p.hsMin ≤ o ∧ o ≤ p.hsMax) ∧ last ≠ Event.highShort.code
    · exact .inr (.inl ⟨by rw [if_neg h1, if_pos h2], h2.1.1, h2.1.2, h2.2⟩)
    · refine .inr (.inr ⟨by rw [if_neg h1, if_neg h2], by omega, ?_⟩)
      by_cases h3 : last = Event.highShort.code
      · exact .inr h3
      · exact .inl (by by_contra h4; exact h2 ⟨⟨by omega, by omega⟩, h3⟩)

/-- The event of a 0 sample (R170-R172). -/
theorem lowRunEvent_cases (p : Params) (zr : Nat) :
    (lowRunEvent p zr = .pause ∧ zr < p.guardCeil ∧ zr + 1 = p.endThresh) ∨
    (lowRunEvent p zr = .none ∧ zr < p.guardCeil ∧ zr + 1 ≠ p.endThresh) ∨
    (lowRunEvent p zr = .invalid ∧ p.guardCeil ≤ zr) := by
  unfold lowRunEvent
  by_cases h1 : zr < p.guardCeil
  · by_cases h2 : zr + 1 = p.endThresh
    · exact .inl ⟨by rw [if_pos h1, if_pos h2], h1, h2⟩
    · exact .inr (.inl ⟨by rw [if_pos h1, if_neg h2], h1, h2⟩)
  · exact .inr (.inr ⟨if_neg h1, by omega⟩)

/-- No event has the reserved code (R95). -/
theorem code_ne_seven (ev : Event) : ev.code ≠ 7 := by cases ev <;> decide

/-- LAST_EV never takes the reserved code (R95, R173). -/
theorem recordEvent_ne_seven {last : EvCode} (ev : Event) (h : last ≠ 7) : recordEvent last ev ≠ 7 := by
  unfold recordEvent
  split
  · exact h
  · exact code_ne_seven ev

/-! ### Stage 2 -/

/-- A data event either waits in the window or fills it; a filled window is a bit, an overflow or malformed
(R207-R211). -/
theorem appendEvent_cases (c : EvCode) (a : Assembler) :
    (a.winCnt.toNat < 3 ∧ appendEvent c a =
      (.quiet, { a with win := a.win.set a.winCnt.toFin c, winCnt := BitVec.ofNat 2 (a.winCnt.toNat + 1) })) ∨
    (a.winCnt.toNat = 3 ∧ ∃ b, (a.win.set a.winCnt.toFin c).dataBit = some b ∧ a.bitCnt ≠ 32 ∧ appendEvent c a =
      (.quiet, { a with win := .empty, winCnt := 0, acc := shlIn a.acc b, bitCnt := a.bitCnt + 1 })) ∨
    (a.winCnt.toNat = 3 ∧ (∃ b, (a.win.set a.winCnt.toFin c).dataBit = some b) ∧ a.bitCnt = 32 ∧
      appendEvent c a = invalidate invOverflow a) ∨
    (a.winCnt.toNat = 3 ∧ (a.win.set a.winCnt.toFin c).dataBit = none ∧
      appendEvent c a = invalidate invQuartet a) := by
  have hlt : a.winCnt.toNat < 4 := a.winCnt.isLt
  by_cases h : a.winCnt.toNat + 1 < 4
  · exact .inl ⟨by omega, by simp only [appendEvent, if_pos h]⟩
  · have h3 : a.winCnt.toNat = 3 := by omega
    refine .inr ?_
    rcases hq : (a.win.set a.winCnt.toFin c).dataBit with _ | b
    · exact .inr (.inr ⟨h3, rfl, by simp only [appendEvent, if_neg h, interpretQuartet, hq]⟩)
    · by_cases h32 : a.bitCnt = 32
      · exact .inr (.inl ⟨h3, ⟨b, rfl⟩, h32,
          by simp only [appendEvent, if_neg h, interpretQuartet, hq, shiftMatchedBit, if_pos h32]⟩)
      · exact .inl ⟨h3, b, rfl, h32,
          by simp only [appendEvent, if_neg h, interpretQuartet, hq, shiftMatchedBit, if_neg h32]⟩

/-- An action of ACCUMULATING is ignored in SEARCHING (R202). -/
theorem whenAccumulating_searching {f : Assembler → Stage2Out × Assembler} {a : Assembler} (h : a.mode = .searching) :
    whenAccumulating f a = (.quiet, a) := by simp only [whenAccumulating, h, ignoreEvent]

/-- An action of ACCUMULATING is taken there. -/
theorem whenAccumulating_accumulating {f : Assembler → Stage2Out × Assembler} {a : Assembler}
    (h : a.mode = .accumulating) : whenAccumulating f a = f a := by simp only [whenAccumulating, h]

/-- Stage 2, by the event (R216): nothing, a re-arming, a completed frame, an invalidation with cause 1, or what a data
event does. -/
theorem advance_cases (a : Assembler) (ev : Event) :
    (advance a ev = (.quiet, a) ∧ ev ≠ .sync) ∨
    (ev = .sync ∧ advance a ev = rearm a) ∨
    (ev = .pause ∧ a.mode = .accumulating ∧ a.bitCnt = 32 ∧ advance a ev = completeFrame a) ∨
    (ev = .invalid ∧ a.mode = .accumulating ∧ advance a ev = invalidate invClassify a) ∨
    (a.mode = .accumulating ∧ isDataCode ev.code = true ∧ advance a ev = appendEvent ev.code a) := by
  rcases hm : a.mode with _ | _
  · cases ev <;> simp [advance, onNone, onInvalid, onData, onSync, onPause, ignoreEvent, whenAccumulating, hm]
  · cases ev
    · simp [advance, onNone, ignoreEvent]
    · simp [advance, onInvalid, whenAccumulating, hm]
    · exact .inr (.inr (.inr (.inr ⟨rfl, rfl, by simp only [advance, onData, whenAccumulating, hm]⟩)))
    · exact .inr (.inr (.inr (.inr ⟨rfl, rfl, by simp only [advance, onData, whenAccumulating, hm]⟩)))
    · exact .inr (.inr (.inr (.inr ⟨rfl, rfl, by simp only [advance, onData, whenAccumulating, hm]⟩)))
    · exact .inr (.inl ⟨rfl, rfl⟩)
    · by_cases h : a.bitCnt = 32
      · exact .inr (.inr (.inl ⟨rfl, rfl, h, by simp only [advance, onPause, whenAccumulating, hm, if_pos h]⟩))
      · exact .inl ⟨by simp only [advance, onPause, whenAccumulating, hm, if_neg h, ignoreEvent], by decide⟩

/-! ### Stages 0 and 3 -/

/-- The countdown idles, expires or counts (R241). -/
theorem countdown_cases (f : DupFilter) :
    (f.cdCnt = 0 ∧ countdown f = f) ∨
    (f.cdCnt = 1 ∧ countdown f = { lastRaw := 0, lastValid := false, cdCnt := 0 }) ∨
    (f.cdCnt ≠ 0 ∧ f.cdCnt ≠ 1 ∧ countdown f = { f with cdCnt := f.cdCnt - 1 }) := by
  by_cases h0 : f.cdCnt = 0
  · exact .inl ⟨h0, by simp only [countdown, if_pos h0]⟩
  · by_cases h1 : f.cdCnt = 1
    · exact .inr (.inl ⟨h1, by simp [countdown, dec0, h1]⟩)
    · have h2 : f.cdCnt - 1 ≠ 0 := by bv_omega
      exact .inr (.inr ⟨h0, h1, by simp only [countdown, dec0, if_neg h0, if_neg h2]⟩)

/-- Stage 3 passes, suppresses or accepts (R248). -/
theorem filterRaw_cases (p : Params) (raw : Option Raw) (f : DupFilter) :
    (raw = none ∧ filterRaw p raw f = ⟨none, false, f⟩) ∨
    (raw = some f.lastRaw ∧ f.lastValid = true ∧ filterRaw p raw f = ⟨none, true, f⟩) ∨
    (∃ v, raw = some v ∧ (f.lastValid = false ∨ v ≠ f.lastRaw) ∧ filterRaw p raw f =
      ⟨some v, false, { lastRaw := v, lastValid := true, cdCnt := BitVec.ofNat 16 p.cooldownTicks }⟩) := by
  rcases raw with _ | v
  · exact .inl ⟨rfl, rfl⟩
  · by_cases h : f.lastValid = true ∧ v = f.lastRaw
    · exact .inr (.inl ⟨by rw [h.2], h.1, by simp only [filterRaw, if_pos h]⟩)
    · refine .inr (.inr ⟨v, rfl, ?_, by simp only [filterRaw, if_neg h]⟩)
      rcases hb : f.lastValid with _ | _
      · exact .inl rfl
      · exact .inr fun hv => h ⟨hb, hv⟩

/-! ### The step -/

/-- A step with no word placed: no clock edge (R285). -/
theorem step_of_no_input {s : State} (h : s.input = []) : step s = .next s := by
  simp only [step, fetch, h]

/-- A step with a word placed runs what the word decodes to. -/
theorem step_of_input {s : State} {x : Stimulus} {rest : List Stimulus} (h : s.input = x :: rest) :
    step s = match decode x with
      | .ok i => exec i (s.feed rest)
      | .error e => execUndecoded e (s.feed rest) := by
  simp only [step, fetch, h]
  rfl

end Sys2Proof.Machine
end

