-- ==== Sys2Proof/Laws/PerInstr.lean ====
section
/-!
SUPPORT. A family of statements about each operation as syntax: the word `encode` writes fits exactly the row the opcode
table gives the operation, and the operation is well formed but for the reserved event code (R91, R94, R95, R97).
-/

namespace Sys2Proof.Laws.EncodedWordFitsItsRow

/-- Exactly one row of the table fits the encoded word, and that row is the operation's own. -/
def Statement (i : Instr) : Prop :=
  (opcodeTable.filter (fun r => r.fits (encode i))).map OpcodeRow.instr = [i] ∧
  (i.wellFormed = false ↔ encode i = .event 7)

theorem reset : Statement .reset := by unfold Statement; decide
theorem nop : Statement .nop := by unfold Statement; decide
theorem tick0 : Statement .tick0 := by unfold Statement; decide
theorem tick1 : Statement .tick1 := by unfold Statement; decide
theorem evNone : Statement .evNone := by unfold Statement; decide
theorem evInvalid : Statement .evInvalid := by unfold Statement; decide
theorem evHighShort : Statement .evHighShort := by unfold Statement; decide
theorem evLowShort : Statement .evLowShort := by unfold Statement; decide
theorem evLowLong : Statement .evLowLong := by unfold Statement; decide
theorem evSync : Statement .evSync := by unfold Statement; decide
theorem evPause : Statement .evPause := by unfold Statement; decide
theorem evReserved7 : Statement .evReserved7 := by unfold Statement; decide
theorem qBit0 : Statement .qBit0 := by unfold Statement; decide
theorem qBit1 : Statement .qBit1 := by unfold Statement; decide

end Sys2Proof.Laws.EncodedWordFitsItsRow
end

