-- ==== Sys2Proof/Laws/Run.lean ====
section
/-!
SUPPORT. Runs of several clocks: one clock at a time, a run cut in two, and the packets a run announces.
-/

namespace Sys2Proof.Machine

@[simp] theorem runClocks_zero (s : State) : runClocks 0 s = .next s := rfl

/-- A run goes on after a clock that answers a next state. -/
theorem runClocks_succ {s t : State} (n : Nat) (h : step s = .next t) : runClocks (n + 1) s = runClocks n t := by
  have hc : Sys2Proof.core.step s = .next t := h
  simp only [runClocks, Host.Core.run, hc]
  rfl

/-- A run that goes on began with a clock that went on. -/
theorem runClocks_succ_eq_next {s u : State} {n : Nat} (h : runClocks (n + 1) s = .next u) :
    ∃ t, step s = .next t ∧ runClocks n t = .next u := by
  rcases hs : step s with t | r | r
  · exact ⟨t, rfl, by rw [← runClocks_succ n hs]; exact h⟩
  · have hc : Sys2Proof.core.step s = .fault r := hs
    simp only [runClocks, Host.Core.run, hc] at h
    cases h
  · have hc : Sys2Proof.core.step s = .refused r := hs
    simp only [runClocks, Host.Core.run, hc] at h
    cases h

/-- A run of `m + n` clocks is a run of `n` after a run of `m`. -/
theorem runClocks_add {s t : State} (m n : Nat) (h : runClocks m s = .next t) :
    runClocks (m + n) s = runClocks n t := by
  induction m generalizing s with
  | zero =>
    cases h
    rw [Nat.zero_add]
  | succ m ih =>
    obtain ⟨u, hs, hr⟩ := runClocks_succ_eq_next h
    rw [Nat.succ_add, runClocks_succ _ hs]
    exact ih hr

/-- At a legal state the clock of a tick word is the tick with its sample (R132, R133). -/
theorem step_tickWord {s : State} (h : s.Legal) (b : Bool) (ws : List InWord) :
    step (s.feedWords (tickWord b :: ws)) = .next (tickState b (s.feedWords ws)) := by
  have hl : (s.feedWords ws).Legal := h
  cases b <;> exact ifReachable_next hl

/-! ### Announcements -/

@[simp] theorem announcements_zero (s : State) : announcements 0 s = [] := rfl

/-- The announcements of a run are that of its first clock and those of the rest. -/
theorem announcements_succ {s t : State} (n : Nat) (h : step s = .next t) :
    announcements (n + 1) s = t.outputs.announced ++ announcements n t := by
  simp only [announcements, h]

/-- The announcements of `m + n` clocks are those of `m` clocks and those of the `n` after them. -/
theorem announcements_add {s t : State} (m n : Nat) (h : runClocks m s = .next t) :
    announcements (m + n) s = announcements m s ++ announcements n t := by
  induction m generalizing s with
  | zero =>
    cases h
    rw [Nat.zero_add, announcements_zero, List.nil_append]
  | succ m ih =>
    obtain ⟨u, hs, hr⟩ := runClocks_succ_eq_next h
    rw [Nat.succ_add, announcements_succ _ hs, announcements_succ _ hs, ih hr, List.append_assoc]

/-- A clock announces nothing exactly when PKT_VALID is 0 after it. -/
@[simp] theorem announced_eq_nil (o : OutputRegs) : o.announced = [] ↔ o.pktValid = false := by
  unfold OutputRegs.announced
  cases o.pktValid <;> simp

end Sys2Proof.Machine
end

