-- ==== Sys2Proof/Tests/Slice0.lean ====
section
/-!
SUPPORT. Tests. Expected results come from spec/: the encodings of R91, R94, R97 and the vectors of 95_test_vectors.md
(named in each comment). The second half holds, for every statement with hypotheses, a state and operands that meet them
all, one for each clause at a boundary of its range.
-/

namespace Sys2Proof.Tests

open Sys2Proof.Machine

/-- The next state of an outcome, if there is one. -/
def nextOf (o : Host.Outcome State Fault Refusal) : Option State :=
  match o with
  | .next t => some t
  | _ => none

/-- The outcome is the given fault. -/
def isFault (o : Host.Outcome State Fault Refusal) : Bool :=
  match o with
  | .fault .unreachableState => true
  | _ => false

/-- The refusal of an outcome, if it is one. -/
def refusalOf (o : Host.Outcome State Fault Refusal) : Option Refusal :=
  match o with
  | .refused r => some r
  | _ => none

/-- Reset state with the given classifier registers. -/
def cls (zeroRun oneRun : Nat) (lastEv : EvCode) : State :=
  { State.reset with classifier := ⟨zeroRun, oneRun, lastEv⟩ }

/-- Reset state with an assembler in ACCUMULATING. -/
def asm (win : Window) (winCnt : BitVec 2) (acc : Raw) (bitCnt : BitVec 6) : State :=
  { State.reset with assembler := ⟨.accumulating, win, winCnt, acc, bitCnt⟩ }

/-- A frame of 32 bits whose next low sample gives PAUSE, with the given duplicate record. -/
def ready (acc lastRaw : Raw) (lastValid : Bool) (cdCnt : BitVec 16) : State :=
  { State.reset with
    classifier := ⟨59, 0, 2⟩
    assembler := ⟨.accumulating, ⟨2, 0, 0, 0⟩, 1, acc, 32⟩
    dupFilter := ⟨lastRaw, lastValid, cdCnt⟩ }

/-- A record just reloaded at COOLDOWN_TICKS = `c`, two ticks before a frame with the stored value completes. -/
def justReloaded (c : Nat) : State :=
  { State.reset with
    params := { Params.default with cooldownTicks := c }
    classifier := ⟨58, 0, 2⟩
    assembler := ⟨.accumulating, ⟨2, 0, 0, 0⟩, 1, 0xA0, 32⟩
    dupFilter := ⟨0xA0, true, BitVec.ofNat 16 c⟩ }

/-- Reset state with other parameters. -/
def withParams (p : Params) : State := { State.reset with params := p }

/-! ### Well-formedness: each check refuses an ill-formed term -/

/-- R95: the reserved code is the one ill-formed operation. -/
theorem test_reserved_code_ill_formed : Instr.evReserved7.wellFormed = false ∧ Instr.evPause.wellFormed = true := by
  decide
/-- R11 item 1. -/
theorem test_params_low_short_from_zero : ¬ { Params.default with lsFuzz := 6 }.Legal := by decide
/-- R11 item 2. -/
theorem test_params_low_windows_touch : ¬ { Params.default with lsNom := 21 }.Legal := by decide
/-- R11 item 3. -/
theorem test_params_sync_window_touches : ¬ { Params.default with llNom := 46 }.Legal := by decide
/-- R11 item 5, at the smallest sum that could break it. -/
theorem test_params_end_threshold : ¬ { Params.default with lsNom := 0, lsFuzz := 0, llFuzz := 0 }.Legal := by decide
/-- R11 item 6. -/
theorem test_params_no_guard_margin : ¬ { Params.default with guardMargin := 0 }.Legal := by decide
/-- R11 item 7. -/
theorem test_params_high_short_from_one : ¬ { Params.default with hsFuzz := 3 }.Legal := by decide
/-- R11 item 8, at both ends. -/
theorem test_params_cooldown_range :
    ¬ { Params.default with cooldownTicks := 0 }.Legal ∧ ¬ { Params.default with cooldownTicks := 65536 }.Legal ∧
    { Params.default with cooldownTicks := 65535 }.Legal := by decide
/-- R250: the default cool-down is the form of the spec at the default run lengths. -/
theorem test_default_cooldown : Params.default.burstTicks = 8004 := by decide

/-! ### Decoding: words written out from the spec's encodings -/

/-- TOP-1: the eight input words. -/
theorem test_decode_input_words :
    [0b000, 0b001, 0b010, 0b011, 0b100, 0b101, 0b110, 0b111].map (fun w => decode (.port w)) =
      [.ok .nop, .ok .nop, .ok .tick0, .ok .tick1, .ok .reset, .ok .reset, .ok .reset, .ok .reset] := by decide
/-- R94: the eight event codes. -/
theorem test_decode_event_codes :
    [0b000, 0b001, 0b010, 0b011, 0b100, 0b101, 0b110, 0b111].map (fun c => decode (.event c)) =
      [.ok .evNone, .ok .evInvalid, .ok .evHighShort, .ok .evLowShort, .ok .evLowLong, .ok .evSync, .ok .evPause,
       .ok .evReserved7] := by decide
/-- R97, SRC-1, SRC-2: the quartets, and one that is malformed. -/
theorem test_decode_quartets :
    decode (.quartet 0b010011010100) = .ok .qBit0 ∧ decode (.quartet 0b010100010011) = .ok .qBit1 ∧
    decode (.quartet 0b010011010011) = .error .malformedQuartet := by decide
/-- The table's words: an input word in one byte, a quartet in two. -/
theorem test_decode_table_words :
    decodeTableWord 8 2 = some .tick0 ∧ decodeTableWord 16 1236 = some .qBit0 ∧ decodeTableWord 16 0 = none := by decide

/-! ### The port operations -/

/-- TOP-5: RESET with `tick_i` and `sample_i` set, in the middle of a frame; the sample is not counted. -/
theorem test_reset_word_mid_frame :
    (nextOf (step { asm ⟨2, 3, 2, 0⟩ 3 0 14 with input := [.port 0b111] })).map (·.toRegs) = some Regs.reset := by decide
/-- R302: RESET runs from a state that is not legal. -/
theorem test_reset_from_illegal_state : (nextOf (exec .reset (cls 99 9 7))).map (·.toRegs) = some Regs.reset := by decide
/-- TOP-2: NOP clears the pulses; EV_CODE, PKT_RAW and CD_CNT hold. -/
theorem test_nop_holds :
    (nextOf (exec .nop { ready 1 1 true 8004 with outputs := ⟨6, true, true, 1, false, 0⟩ })).map
      (fun t => (t.outputs, t.dupFilter.cdCnt)) = some (⟨6, false, false, 1, false, 0⟩, 8004) := by decide
/-- TOP-3: the PAUSE tick produces the packet. -/
theorem test_tick0_accepts :
    (nextOf (exec .tick0 (ready 1 0 false 0))).map (fun t => (t.outputs, t.dupFilter, t.assembler)) =
      some (⟨6, true, true, 1, false, 0⟩, ⟨1, true, 8004⟩, Assembler.idle) := by decide
/-- TOP-7, CL-13b: the guard ceiling gives INVALID and cause 1. -/
theorem test_tick0_invalid_at_ceiling :
    (nextOf (exec .tick0 { asm .empty 0 0 5 with classifier := ⟨70, 0, 6⟩ })).map
      (fun t => (t.outputs.evCode, t.outputs.inv, t.classifier, t.assembler)) =
      some (1, 1, ⟨70, 0, 1⟩, Assembler.idle) := by decide
/-- TOP-6, CL-1. -/
theorem test_tick1_low_short :
    (nextOf (exec .tick1 (cls 6 0 2))).map (fun t => (t.outputs.evCode, t.outputs.evValid, t.classifier)) =
      some (3, true, ⟨0, 1, 3⟩) := by decide
/-- CL-7 and CL-14: HIGH_SHORT on entering the window, and suppressed by LAST_EV. -/
theorem test_tick1_high_short :
    (nextOf (exec .tick1 (cls 0 2 3))).map (fun t => (t.outputs.evCode, t.classifier)) = some (2, ⟨0, 3, 2⟩) ∧
    (nextOf (exec .tick1 (cls 0 2 2))).map (fun t => (t.outputs.evCode, t.classifier)) = some (0, ⟨0, 3, 2⟩) := by
  decide
/-- FI-7 and FI-8: an expiry in the tick of the compare accepts; one tick earlier suppresses. -/
theorem test_expiry_before_compare :
    (nextOf (exec .tick0 (ready 0xA0 0xA0 true 1))).map (fun t => (t.outputs.pktValid, t.outputs.dup, t.dupFilter)) =
      some (true, false, ⟨0xA0, true, 8004⟩) ∧
    (nextOf (exec .tick0 (ready 0xA0 0xA0 true 2))).map (fun t => (t.outputs.pktValid, t.outputs.dup, t.dupFilter)) =
      some (false, true, ⟨0xA0, true, 1⟩) := by decide

/-! ### The event and quartet operations -/

/-- AS-3. -/
theorem test_event_none : (nextOf (exec .evNone (asm ⟨2, 3, 0, 0⟩ 2 3 2))).map (·.assembler) =
    some ⟨.accumulating, ⟨2, 3, 0, 0⟩, 2, 3, 2⟩ := by decide
/-- AS-4. -/
theorem test_event_invalid : (nextOf (exec .evInvalid (asm ⟨2, 0, 0, 0⟩ 1 0x12345 17))).map
    (fun t => (t.assembler, t.asmOut)) = some (Assembler.idle, ⟨none, 1⟩) := by decide
/-- AS-5. -/
theorem test_event_high_short : (nextOf (exec .evHighShort (asm .empty 0 0 0))).map (·.assembler) =
    some ⟨.accumulating, ⟨2, 0, 0, 0⟩, 1, 0, 0⟩ := by decide
/-- AS-11. -/
theorem test_event_high_short_fourth : (nextOf (exec .evHighShort (asm ⟨2, 3, 2, 0⟩ 3 5 3))).map
    (fun t => (t.assembler, t.asmOut)) = some (Assembler.idle, ⟨none, 2⟩) := by decide
/-- AS-8: the 32nd bit. -/
theorem test_event_low_short_shifts : (nextOf (exec .evLowShort (asm ⟨2, 4, 2, 0⟩ 3 0x7FFFFFFF 31))).map
    (fun t => (t.assembler, t.asmOut)) = some (⟨.accumulating, .empty, 0, 0xFFFFFFFF, 32⟩, .quiet) := by decide
/-- AS-10: malformed before overflow. -/
theorem test_event_low_short_malformed : (nextOf (exec .evLowShort (asm ⟨2, 3, 2, 0⟩ 3 0xDEADBEEF 32))).map
    (fun t => (t.assembler, t.asmOut)) = some (Assembler.idle, ⟨none, 2⟩) := by decide
/-- AS-7. -/
theorem test_event_low_long_shifts : (nextOf (exec .evLowLong (asm ⟨2, 3, 2, 0⟩ 3 0x15 5))).map
    (fun t => (t.assembler, t.asmOut)) = some (⟨.accumulating, .empty, 0, 0x2A, 6⟩, .quiet) := by decide
/-- AS-9: overflow. -/
theorem test_event_low_long_overflow : (nextOf (exec .evLowLong (asm ⟨2, 3, 2, 0⟩ 3 0xDEADBEEF 32))).map
    (fun t => (t.assembler, t.asmOut)) = some (Assembler.idle, ⟨none, 3⟩) := by decide
/-- AS-2. -/
theorem test_event_sync_searching : (nextOf (exec .evSync State.reset)).map (·.assembler) = some Assembler.armed := by
  decide
/-- AS-17: a complete frame not yet ended is discarded. -/
theorem test_event_sync_accumulating : (nextOf (exec .evSync (asm .empty 0 0x12345678 32))).map
    (fun t => (t.assembler, t.asmOut)) = some (Assembler.armed, .quiet) := by decide
/-- AS-14: three pending events are dropped. -/
theorem test_event_pause_completes : (nextOf (exec .evPause (asm ⟨2, 3, 2, 0⟩ 3 0xCAFEF00D 32))).map
    (fun t => (t.assembler, t.asmOut)) = some (Assembler.idle, ⟨some 0xCAFEF00D, 0⟩) := by decide
/-- AS-15. -/
theorem test_event_pause_early : (nextOf (exec .evPause (asm ⟨2, 0, 0, 0⟩ 1 0x7FFFFFFF 31))).map
    (fun t => (t.assembler, t.asmOut)) = some (⟨.accumulating, ⟨2, 0, 0, 0⟩, 1, 0x7FFFFFFF, 31⟩, .quiet) := by decide
/-- AS-18. -/
theorem test_event_reserved : refusalOf (exec .evReserved7 State.reset) = some .reservedEventCode := by decide
/-- R208, R209, with the payload bit at the bottom. -/
theorem test_quartet_bits :
    (nextOf (exec .qBit0 (asm .empty 0 0x15 5))).map (·.assembler) = some ⟨.accumulating, .empty, 0, 0x2A, 6⟩ ∧
    (nextOf (exec .qBit1 (asm .empty 0 0x15 5))).map (·.assembler) = some ⟨.accumulating, .empty, 0, 0x2B, 6⟩ := by decide
/-- R98, R211: a malformed quartet word. -/
theorem test_quartet_word_malformed :
    (nextOf (step { asm .empty 0 0x15 5 with input := [.quartet 0x4D3] })).map (fun t => (t.assembler, t.asmOut)) =
      some (Assembler.idle, ⟨none, 2⟩) := by decide
/-- A placed table word is run by the next step. -/
theorem test_fetch_word_runs :
    (nextOf (step (State.reset.withFetchWord 8 3))).map (fun t => (t.classifier.oneRun, t.input)) = some (1, []) ∧
    (nextOf (step (State.reset.withFetchWord 16 0x513))).map (·.toRegs) = some Regs.reset := by decide
/-- R92: each port shows the register of its name. -/
theorem test_ports :
    ports ⟨6, true, false, 0x12345678, true, 2⟩ =
      ⟨true, 6, false, 0x12345678, 0x48D159, 1, 1, 2, 0, true, 2⟩ := by decide
/-- R107: a data bit's words, from the table. -/
theorem test_bit_words :
    directiveWords PseudoDirective.bit1.directives =
      List.replicate 4 3 ++ List.replicate 24 2 ++ List.replicate 4 3 ++ List.replicate 6 2 := by decide
/-- SRC-11. -/
theorem test_packet_fields :
    packetOf 0x12345678 = ⟨0x48D159, 1, 1, 2, 0⟩ ∧ packetOf 0xA5A5A5A5 = ⟨0x2969696, 1, 0, 1, 1⟩ := by decide
/-- 93_implementation_defined.md I8. -/
theorem test_illegal_state_faults :
    isFault (exec .tick0 (cls 71 0 0)) = true ∧ isFault (exec .evPause (asm .empty 0 0 33)) = true := by decide
/-- R11. -/
theorem test_illegal_params_refused :
    refusalOf (exec .nop (withParams { Params.default with guardMargin := 0 })) = some .illegalParameters := by decide

/-! ### Witnesses: states and operands that meet the hypotheses of the statements -/

theorem witness_OtherQuartetsAreMalformed : (0x4D3 : QuartetWord) ≠ 0x4D4 ∧ (0x4D3 : QuartetWord) ≠ 0x513 := by decide
theorem witness_IllegalParametersRefused : ¬ (withParams { Params.default with cooldownTicks := 0 }).params.Legal := by
  decide
theorem witness_RunCountersFitTheirWidths : (cls 70 0 0).Legal ∧ (cls 0 6 0).Legal := by and_intros <;> decide
theorem witness_ResetClearsEveryRegister :
    (cls 99 9 7).params.Legal ∧ (0b111 : InWord).getLsbD 2 = true ∧ (0b100 : InWord).getLsbD 2 = true := by and_intros <;> decide
theorem witness_ResetErasesHistory :
    (cls 99 9 7).params = (cls 1 0 0).params ∧ (cls 99 9 7).params.Legal ∧ (0b101 : InWord).getLsbD 2 = true := by and_intros <;> decide
theorem witness_StepRunsDecodedOperation :
    decode (.port 0b011) = .ok .tick1 ∧ decode (.event 0b110) = .ok .evPause ∧ decode (.quartet 0x513) = .ok .qBit1 := by
  decide
theorem witness_StepWithoutInputHolds : State.reset.input = [] := by decide
theorem witness_NopClearsOnlyPulses : (cls 99 9 7).params.Legal := by decide
theorem witness_StepIsWholeStepFunction : (ready 1 1 true 8004).Legal := by decide
/-- Both sides of the ceiling, and the threshold. -/
theorem witness_LowSampleClassified :
    (cls 59 0 2).Legal ∧ (cls 69 0 6).Legal ∧ (cls 70 0 6).Legal ∧
    (cls 69 0 6).classifier.zeroRun < (cls 69 0 6).params.guardCeil ∧
    ¬ (cls 70 0 6).classifier.zeroRun < (cls 70 0 6).params.guardCeil := by and_intros <;> decide
/-- The edges of the low windows and of the high window. -/
theorem witness_HighSampleClassified :
    (cls 5 0 2).Legal ∧ (cls 7 0 2).Legal ∧ (cls 22 0 2).Legal ∧ (cls 26 0 2).Legal ∧ (cls 48 0 2).Legal ∧
    (cls 52 0 2).Legal ∧ (cls 0 2 3).Legal ∧ (cls 0 4 3).Legal ∧ (cls 0 5 2).Legal ∧ (cls 0 6 1).Legal := by and_intros <;> decide
theorem witness_ExactlyOneRunAfterTick : State.reset.Legal ∧ (cls 0 6 1).Legal ∧ (cls 70 0 1).Legal := by and_intros <;> decide
theorem witness_HighShortSuppressedWhileLast : (cls 0 2 2).Legal ∧ (cls 0 2 2).classifier.lastEv = 2 := by and_intros <;> decide
theorem witness_LowRunEvents : (cls 0 4 2).Legal ∧ (cls 0 4 2).classifier.zeroRun = 0 ∧ 1 ≤ 60 ∧ 1 ≤ 71 := by and_intros <;> decide
/-- With and without a window that ends the suppression. -/
theorem witness_HighRunEvents :
    (cls 7 0 2).Legal ∧ (cls 7 0 2).classifier.oneRun = 0 ∧ (cls 8 0 2).Legal ∧ (cls 8 0 2).classifier.oneRun = 0 ∧
    2 ≤ Params.default.hsMin ∧ 2 ≤ Params.default.hsMax + 1 := by and_intros <;> decide
theorem witness_SearchingIgnoresAllButSync : State.reset.Legal ∧ State.reset.assembler.mode = .searching := by and_intros <;> decide
theorem witness_NoneEventChangesNothing : (asm ⟨2, 3, 0, 0⟩ 2 3 2).Legal := by decide
theorem witness_InvalidEventInvalidates :
    (asm ⟨2, 0, 0, 0⟩ 1 0x12345 17).Legal ∧ (asm ⟨2, 0, 0, 0⟩ 1 0x12345 17).assembler.mode = .accumulating := by and_intros <;> decide
theorem witness_SyncEventRearms : State.reset.Legal ∧ (asm ⟨2, 3, 0, 0⟩ 2 0xABCDE 20).Legal := by and_intros <;> decide
theorem witness_PauseEventCompletesFrame :
    (asm ⟨2, 3, 2, 0⟩ 3 0xCAFEF00D 32).Legal ∧ (asm ⟨2, 3, 2, 0⟩ 3 0xCAFEF00D 32).assembler.mode = .accumulating ∧
    (asm ⟨2, 3, 2, 0⟩ 3 0xCAFEF00D 32).assembler.bitCnt = 32 := by and_intros <;> decide
theorem witness_EarlyPauseEventIgnored :
    (asm ⟨2, 0, 0, 0⟩ 1 0x7FFFFFFF 31).Legal ∧ (asm ⟨2, 0, 0, 0⟩ 1 0x7FFFFFFF 31).assembler.mode = .accumulating ∧
    (asm ⟨2, 0, 0, 0⟩ 1 0x7FFFFFFF 31).assembler.bitCnt.toNat < 32 := by and_intros <;> decide
theorem witness_DataEventAppended :
    (asm .empty 0 0 0).Legal ∧ (asm ⟨2, 3, 0, 0⟩ 2 3 2).Legal ∧ (asm ⟨2, 3, 0, 0⟩ 2 3 2).assembler.mode = .accumulating ∧
    (asm ⟨2, 3, 0, 0⟩ 2 3 2).assembler.winCnt.toNat < 3 := by and_intros <;> decide
/-- One state for each of the two quartets, at the last bit. -/
theorem witness_MatchedQuartetShiftsBitIn :
    (asm ⟨2, 3, 2, 0⟩ 3 0x7FFFFFFF 31).Legal ∧ (asm ⟨2, 3, 2, 0⟩ 3 0x7FFFFFFF 31).assembler.mode = .accumulating ∧
    (asm ⟨2, 3, 2, 0⟩ 3 0x7FFFFFFF 31).assembler.winCnt = 3 ∧
    (asm ⟨2, 3, 2, 0⟩ 3 0x7FFFFFFF 31).assembler.bitCnt.toNat < 32 ∧
    (asm ⟨2, 4, 2, 0⟩ 3 0x7FFFFFFF 31).Legal ∧ (asm ⟨2, 4, 2, 0⟩ 3 0x7FFFFFFF 31).assembler.mode = .accumulating ∧
    (asm ⟨2, 4, 2, 0⟩ 3 0x7FFFFFFF 31).assembler.winCnt = 3 := by and_intros <;> decide
theorem witness_ThirtyThirdBitOverflows :
    (asm ⟨2, 3, 2, 0⟩ 3 0xDEADBEEF 32).Legal ∧ (asm ⟨2, 4, 2, 0⟩ 3 0xDEADBEEF 32).Legal ∧
    (asm ⟨2, 3, 2, 0⟩ 3 0xDEADBEEF 32).assembler.mode = .accumulating ∧
    (asm ⟨2, 3, 2, 0⟩ 3 0xDEADBEEF 32).assembler.winCnt = 3 ∧ (asm ⟨2, 3, 2, 0⟩ 3 0xDEADBEEF 32).assembler.bitCnt = 32 := by and_intros <;> decide
/-- A window that no event completes, and one that the wrong fourth event spoils at 32 bits. -/
theorem witness_MalformedQuartetInvalidates :
    (asm ⟨3, 2, 3, 0⟩ 3 0 0).Legal ∧ (asm ⟨2, 3, 2, 0⟩ 3 0xDEADBEEF 32).Legal ∧
    (asm ⟨2, 3, 2, 0⟩ 3 0xDEADBEEF 32).assembler.mode = .accumulating ∧
    (asm ⟨2, 3, 2, 0⟩ 3 0xDEADBEEF 32).assembler.winCnt = 3 ∧ ¬ ((3 : EvCode) = 4) := by and_intros <;> decide
/-- Both sides of the bit count's bound. -/
theorem witness_QuartetOperationShiftsOrOverflows :
    (asm .empty 0 0x7FFFFFFF 31).Legal ∧ (asm .empty 0 0xFFFFFFFF 32).Legal ∧
    (asm .empty 0 0x7FFFFFFF 31).assembler.mode = .accumulating ∧
    (asm .empty 0 0x7FFFFFFF 31).assembler.bitCnt.toNat < 32 ∧
    ¬ (asm .empty 0 0xFFFFFFFF 32).assembler.bitCnt.toNat < 32 := by and_intros <;> decide
theorem witness_QuartetOperationIgnoredInSearching :
    State.reset.Legal ∧ State.reset.assembler.mode = .searching := by and_intros <;> decide
theorem witness_FourthEventIsItsQuartet :
    (asm ⟨2, 3, 2, 0⟩ 3 0x15 5).Legal ∧ (asm ⟨2, 4, 2, 0⟩ 3 0x15 5).Legal ∧
    (asm ⟨2, 3, 2, 0⟩ 3 0x15 5).assembler.mode = .accumulating ∧ (asm ⟨2, 3, 2, 0⟩ 3 0x15 5).assembler.winCnt = 3 ∧
    (asm ⟨2, 4, 2, 0⟩ 3 0x15 5).assembler.win.w1 = 4 := by and_intros <;> decide
/-- Both modes. -/
theorem witness_MalformedQuartetWordInvalidatesOrIsIgnored :
    (asm .empty 0 0x15 5).Legal ∧ (asm .empty 0 0x15 5).assembler.mode = .accumulating ∧
    State.reset.Legal ∧ ¬ State.reset.assembler.mode = .accumulating ∧
    (0x4D3 : QuartetWord) ≠ 0x4D4 ∧ (0x4D3 : QuartetWord) ≠ 0x513 := by and_intros <;> decide
/-- Three pending events, and none. -/
theorem witness_FrameEventsYieldPayload :
    (asm ⟨2, 3, 0, 0⟩ 2 3 2).Legal ∧ [Event.highShort, .lowShort, .lowLong].length ≤ 3 ∧
    (∀ e ∈ [Event.highShort, .lowShort, .lowLong], isDataEvent e = true) ∧ ([] : List Event).length ≤ 3 := by and_intros <;> decide
theorem witness_TickRunsItsEvent : (ready 1 0 false 0).Legal ∧ (cls 6 0 2).Legal := by and_intros <;> decide
theorem witness_LowTickNeverAppends :
    (ready 1 0 false 0).Legal ∧ { asm .empty 0 0 5 with classifier := ⟨70, 0, 6⟩ }.Legal := by and_intros <;> decide
theorem witness_RepeatedFrameSuppressed :
    (ready 0xA0 0xA0 true 2).Legal ∧ (ready 0xA0 0xA0 true 2).assembler.mode = .accumulating ∧
    (ready 0xA0 0xA0 true 2).assembler.bitCnt = 32 ∧
    (ready 0xA0 0xA0 true 2).classifier.zeroRun + 1 = (ready 0xA0 0xA0 true 2).params.endThresh ∧
    (ready 0xA0 0xA0 true 2).dupFilter.lastValid = true ∧ (ready 0xA0 0xA0 true 2).dupFilter.cdCnt ≠ 1 ∧
    (ready 0xA0 0xA0 true 2).dupFilter.lastRaw = (ready 0xA0 0xA0 true 2).assembler.acc := by and_intros <;> decide
/-- Nothing stored; an expiry in this tick; another value. -/
theorem witness_NewFrameAccepted :
    (ready 0 0 false 0).Legal ∧ (ready 0xA0 0xA0 true 1).Legal ∧ (ready 0xB0 0xA0 true 500).Legal ∧
    (ready 0 0 false 0).assembler.mode = .accumulating ∧ (ready 0 0 false 0).assembler.bitCnt = 32 ∧
    (ready 0 0 false 0).classifier.zeroRun + 1 = (ready 0 0 false 0).params.endThresh ∧
    (ready 0 0 false 0).dupFilter.lastValid = false ∧ (ready 0xA0 0xA0 true 1).dupFilter.cdCnt = 1 ∧
    (ready 0xB0 0xA0 true 500).dupFilter.lastRaw ≠ (ready 0xB0 0xA0 true 500).assembler.acc := by and_intros <;> decide
/-- FI-1, FI-2 and FI-3: no countdown, a running one, an expiring one. -/
theorem witness_OtherTicksOnlyCountDown :
    State.reset.Legal ∧ { State.reset with dupFilter := ⟨0xA0, true, 100⟩ }.Legal ∧
    { State.reset with dupFilter := ⟨0xA0, true, 1⟩ }.Legal ∧
    ¬ (State.reset.assembler.mode = .accumulating ∧ State.reset.assembler.bitCnt = 32 ∧
      State.reset.classifier.zeroRun + 1 = State.reset.params.endThresh) := by and_intros <;> decide
/-- After one tick the frame completes: on the last suppressed tick of three, and on the accepted tick of two. -/
theorem witness_SuppressionWindow :
    ∀ c ∈ [2, 3],
      let s := justReloaded c
      s.Legal ∧ s.dupFilter.lastValid = true ∧ s.dupFilter.cdCnt.toNat = s.params.cooldownTicks ∧
      announcements 1 (s.feedWords ([false].map tickWord)) = [] ∧
      (nextOf (runClocks 1 (s.feedWords ([false].map tickWord)))).map
        (fun u => (u.assembler.mode, u.assembler.bitCnt, u.assembler.acc, u.classifier.zeroRun)) =
        some (.accumulating, 32, s.dupFilter.lastRaw, 59) ∧ s.params.endThresh = 60 := by
  intro c hc
  rcases List.mem_pair.mp hc with rfl | rfl <;> (and_intros <;> decide)
theorem witness_OutcomesOfATickExclude : (ready 1 1 true 8004).Legal ∧ (cls 6 0 2).Legal := by and_intros <;> decide
/-- A tick that answers a next state with an invalidation, on each sample. -/
theorem witness_InvalidationIsPrecise :
    (nextOf (exec .tick0 { asm .empty 0 0 5 with classifier := ⟨70, 0, 6⟩, dupFilter := ⟨1, true, 9⟩ })).map
      (fun t => t.outputs.inv) = some 1 ∧
    (nextOf (exec .tick1 { asm ⟨2, 3, 2, 0⟩ 3 0 32 with classifier := ⟨24, 0, 2⟩ })).map
      (fun t => t.outputs.inv) = some 3 := by decide
theorem witness_EventsAndQuartetsTouchOnlyAssembler :
    (nextOf (exec .evSync State.reset)).isSome = true ∧ (nextOf (exec .qBit1 (asm .empty 0 0x15 5))).isSome = true := by
  decide
theorem witness_OperationsKeepParametersAndInput :
    (nextOf (exec .reset State.reset)).isSome = true ∧ (nextOf (exec .tick1 State.reset)).isSome = true := by decide
theorem witness_UnreachableStateFaults :
    (cls 71 0 0).params.Legal ∧ ¬ (cls 71 0 0).toRegs.Legal (cls 71 0 0).params := by and_intros <;> decide
theorem witness_StepKeepsInvariant :
    { ready 1 0 false 0 with input := [.port 0b010] }.Inv ∧
    (nextOf (step { ready 1 0 false 0 with input := [.port 0b010] })).isSome = true := by decide
theorem witness_ReachableStatesAreLegal :
    Params.default.Legal ∧
    (nextOf (runClocks 2 { State.reset with params := .default, input := [.event 5, .event 2] })).map
      (fun t => t.assembler.winCnt) = some 1 := by and_intros <;> decide
theorem witness_CoreNeverStops : (ready 1 0 false 0).Inv := by decide
/-- The stored value outlasts the frame by one tick, and expires in its last tick. -/
theorem witness_FrameWordsAnnouncePayload :
    (ready 1 1 true 1335).Legal ∧ (ready 1 1 true 1335).params = .default ∧ 1334 < (ready 1 1 true 1335).dupFilter.cdCnt.toNat ∧
    (ready 1 1 true 1334).Legal ∧ (ready 1 1 true 1334).params = .default ∧
    ¬ 1334 < (ready 1 1 true 1334).dupFilter.cdCnt.toNat := by and_intros <;> decide
theorem witness_NopsCanBeErased :
    State.reset.Legal ∧ [0b011, 0b000, 0b011].getLast? = some (0b011 : InWord) ∧ isNopWord 0b011 = false := by and_intros <;> decide

end Sys2Proof.Tests
end

section
/-!
PROOFS. The statements of spec/00_scope.md: the default parameters (R10), the refusal of illegal parameter sets (R11) and
the widths of the run counters (R12). `exec_cases` is the inversion lemma of `exec`.
-/

namespace Sys2Proof

/-! ### The fewest bits that hold a number (R12) -/

theorem bitsToHold_of_ne_zero {n : Nat} (h : n ≠ 0) : bitsToHold n = n.log2 + 1 := if_neg h

/-- The bits are enough. -/
theorem lt_two_pow_bitsToHold (n : Nat) : n < 2 ^ bitsToHold n := by
  by_cases h : n = 0
  · subst h
    decide
  · rw [bitsToHold_of_ne_zero h]
    exact Nat.lt_log2_self

/-- One bit fewer is not enough: the power with one bit fewer is at most `n`. -/
theorem two_pow_bitsToHold_le {n : Nat} (h : n ≠ 0) : 2 ^ bitsToHold n ≤ 2 * n := by
  rw [bitsToHold_of_ne_zero h, Nat.pow_succ']
  exact Nat.mul_le_mul_left 2 (Nat.log2_self_le h)

/-! ### Parameter sets (R10, R11) -/

/-- The default set meets the eight constraints of R11. -/
theorem Params.default_legal : Params.default.Legal := by decide

theorem Params.Legal.guardCeil_ne_zero {p : Params} (h : p.Legal) : p.guardCeil ≠ 0 := by
  obtain ⟨-, -, -, -, -, hguard, -⟩ := h
  exact Nat.ne_zero_of_lt hguard

end Sys2Proof

namespace Sys2Proof.Machine

/-! ### Where an operation stops -/

theorem ifConfigured_refused {s t : State} (h : ¬ s.params.Legal) : ifConfigured s t = .refused .illegalParameters :=
  if_neg h

theorem ifReachable_refused {s t : State} (h : ¬ s.params.Legal) : ifReachable s t = .refused .illegalParameters :=
  if_neg h

/-- What an operation can do: RESET and NOP ask for legal parameters alone, the reserved event code is refused, and
every other operation is a tick or an action of the assembler that asks for a legal state. -/
theorem exec_cases (i : Instr) (s : State) :
    (i = .reset ∧ exec i s = ifConfigured s (resetState s)) ∨
    (i = .nop ∧ exec i s = ifConfigured s (idleState s)) ∨
    (i = .evReserved7 ∧ exec i s = .refused .reservedEventCode) ∨
    (∃ b, exec i s = ifReachable s (tickState b s)) ∨
    (∃ f, exec i s = ifReachable s (assemblerState f s)) := by
  cases i with
  | reset => exact .inl ⟨rfl, rfl⟩
  | nop => exact .inr (.inl ⟨rfl, rfl⟩)
  | evReserved7 => exact .inr (.inr (.inl ⟨rfl, rfl⟩))
  | tick0 | tick1 => exact .inr (.inr (.inr (.inl ⟨_, rfl⟩)))
  | evNone | evInvalid | evHighShort | evLowShort | evLowLong | evSync | evPause | qBit0 | qBit1 =>
    exact .inr (.inr (.inr (.inr ⟨_, rfl⟩)))

/-- No operation goes on, or faults, at an illegal parameter set. -/
theorem exec_refused_of_illegal_params (i : Instr) {s : State} (h : ¬ s.params.Legal) :
    ∃ r, exec i s = .refused r := by
  obtain ⟨-, hexec⟩ | ⟨-, hexec⟩ | ⟨-, hexec⟩ | ⟨b, hexec⟩ | ⟨f, hexec⟩ := exec_cases i s
  · exact ⟨_, hexec.trans (ifConfigured_refused h)⟩
  · exact ⟨_, hexec.trans (ifConfigured_refused h)⟩
  · exact ⟨_, hexec⟩
  · exact ⟨_, hexec.trans (ifReachable_refused h)⟩
  · exact ⟨_, hexec.trans (ifReachable_refused h)⟩

/-! ### The statements -/

/-- Settles O11: a legal state's counters are at most their bounds, and `bitsToHold` is enough for a bound and no
wider than it must be. -/
theorem runCountersFitTheirWidths : Obligations.RunCountersFitTheirWidths := by
  refine ⟨fun s hs => ?_, by decide, by decide⟩
  obtain ⟨hp, ⟨hzero, hone, -⟩, -⟩ := hs
  exact ⟨hzero.trans_lt (lt_two_pow_bitsToHold _), hone.trans_lt (lt_two_pow_bitsToHold _),
    two_pow_bitsToHold_le hp.guardCeil_ne_zero, two_pow_bitsToHold_le (Nat.succ_ne_zero _)⟩

/-- Settles O9: the defaults and the definitions hold by computation, the constraints by `Params.default_legal`. -/
theorem defaultParameterValues : Obligations.DefaultParameterValues := by
  refine ⟨rfl, Params.default_legal, rfl, rfl, rfl, rfl, rfl, rfl, fun p => ?_⟩
  and_intros <;> rfl

/-- Settles O10: the eight constraints are `Params.Legal`, which every operation but the reserved event's tests. -/
theorem illegalParametersRefused : Obligations.IllegalParametersRefused :=
  fun i _ h => exec_refused_of_illegal_params i h

end Sys2Proof.Machine
end

section
/-!
PROOFS. The statements of spec/10_state.md: the values after reset (R50), the invariants R51-R56 and what no operation
writes (R57, R316). Each stage keeps the legality of its registers; `Transition` says once what a clock can do to the
state, so that what every step keeps is checked on four transitions.
-/

namespace Sys2Proof.Machine

/-! ### The event codes (R94) -/

theorem code_eq_zero_iff (ev : Event) : ev.code = 0 ↔ ev = .none := by cases ev <;> decide

theorem code_eq_two_iff (ev : Event) : ev.code = 2 ↔ ev = .highShort := by cases ev <;> decide

theorem isDataCode_iff (c : EvCode) : isDataCode c = true ↔ c = 2 ∨ c = 3 ∨ c = 4 := by
  simp [isDataCode, Event.code, or_assoc]

/-! ### Stage 1 keeps the classifier legal (R33-R35, R51) -/

@[simp] theorem classify_lastEv (p : Params) (c : Classifier) (b : Bool) :
    (classify p c b).2.lastEv = recordEvent c.lastEv (classify p c b).1 := by cases b <;> rfl

@[simp] theorem classify_high_zeroRun (p : Params) (c : Classifier) : (classify p c true).2.zeroRun = 0 := rfl

@[simp] theorem classify_high_oneRun (p : Params) (c : Classifier) :
    (classify p c true).2.oneRun = min (c.oneRun + 1) (p.hsMax + 1) := rfl

@[simp] theorem classify_low_oneRun (p : Params) (c : Classifier) : (classify p c false).2.oneRun = 0 := rfl

/-- Up to the ceiling the zero run counts with saturation (R170). -/
theorem classify_low_zeroRun {p : Params} {c : Classifier} (h : c.zeroRun ≤ p.guardCeil) :
    (classify p c false).2.zeroRun = min (c.zeroRun + 1) p.guardCeil := by
  change (if c.zeroRun < p.guardCeil then c.zeroRun + 1 else c.zeroRun) = _
  split <;> omega

theorem classify_legal {p : Params} {c : Classifier} (b : Bool) (h : c.Legal p) : (classify p c b).2.Legal p := by
  obtain ⟨hzero, -, hlast, -⟩ := h
  have hlast' : (classify p c b).2.lastEv ≠ 7 := by
    rw [classify_lastEv]
    exact recordEvent_ne_seven _ hlast
  cases b with
  | false => exact ⟨by rw [classify_low_zeroRun hzero]; exact min_le_right _ _, Nat.zero_le _, hlast', .inr rfl⟩
  | true => exact ⟨Nat.zero_le _, min_le_right _ _, hlast', .inl rfl⟩

/-- No HIGH_SHORT while it is the last event: a low sample has no such event, and neither has an ended low run
(R163-R172). -/
theorem classify_ne_highShort {p : Params} {c : Classifier} (b : Bool) (h : c.lastEv = 2) :
    (classify p c b).1 ≠ .highShort := by
  cases b with
  | false =>
    change lowRunEvent p c.zeroRun ≠ _
    obtain ⟨hev, -⟩ | ⟨hev, -⟩ | ⟨hev, -⟩ := lowRunEvent_cases p c.zeroRun <;> simp [hev]
  | true =>
    change (endedLowEvent p c.zeroRun).getD (highRunEvent p (satInc c.oneRun (p.hsMax + 1)) c.lastEv) ≠ _
    obtain ⟨hev, -⟩ | ⟨hev, -⟩ | ⟨hev, -⟩ | ⟨hev, -⟩ := endedLowEvent_cases p c.zeroRun
    case inr.inr.inr =>
      obtain ⟨hone, -⟩ | ⟨-, -, -, hne⟩ | ⟨hone, -⟩ :=
        highRunEvent_cases p (satInc c.oneRun (p.hsMax + 1)) c.lastEv
      · simp [hev, hone]
      · exact absurd h hne
      · simp [hev, hone]
    all_goals simp [hev]

/-! ### Stage 2 keeps the assembler legal (R36-R40, R52-R54) -/

theorem Window.get_set (w : Window) (i j : Fin 4) (c : EvCode) :
    (w.set i c).get j = if j = i then c else w.get j := by
  fin_cases i <;> fin_cases j <;> rfl

@[simp] theorem Window.empty_get (i : Fin 4) : Window.empty.get i = 0 := by fin_cases i <;> rfl

/-- A bit shifted in moves the bound of the accumulator up by one place (R209, R54). -/
theorem shlIn_toNat_lt {acc : Raw} {n : Nat} (b : Bool) (h : acc.toNat < 2 ^ n) :
    (shlIn acc b).toNat < 2 ^ (n + 1) := by
  have hacc : (acc <<< 1).toNat < 2 ^ (n + 1) := by
    rw [BitVec.toNat_shiftLeft, Nat.shiftLeft_eq, pow_one, Nat.pow_succ]
    exact (Nat.mod_le _ _).trans_lt (by omega)
  have hbit : ((BitVec.ofBool b).setWidth 32).toNat < 2 ^ (n + 1) := by
    have hone : ((BitVec.ofBool b).setWidth 32).toNat < 2 ^ 1 := by cases b <;> decide
    exact hone.trans_le (Nat.pow_le_pow_right (by decide) (by omega))
  rw [shlIn, BitVec.toNat_or]
  exact Nat.or_lt_two_pow hacc hbit

/-- The cleared registers are legal in either mode. -/
theorem Assembler.IsClear.legal {a : Assembler} (h : a.IsClear) : a.Legal := by
  obtain ⟨hwin, hcnt, hacc, hbits⟩ := h
  exact ⟨fun _ => ⟨hwin, hcnt, hacc, hbits⟩, by simp [hwin, hcnt], by simp [hbits], by simp [hacc, hbits]⟩

theorem invalidate_legal (c : CauseCode) (a : Assembler) : (invalidate c a).2.Legal :=
  Assembler.IsClear.legal ⟨rfl, rfl, rfl, rfl⟩

theorem rearm_legal (a : Assembler) : (rearm a).2.Legal := Assembler.IsClear.legal ⟨rfl, rfl, rfl, rfl⟩

theorem completeFrame_legal (a : Assembler) : (completeFrame a).2.Legal :=
  Assembler.IsClear.legal ⟨rfl, rfl, rfl, rfl⟩

/-- A matched bit below 32 (R209). -/
theorem shiftedBit_legal {a : Assembler} (b : Bool) (hm : a.mode = .accumulating) (h : a.Legal)
    (h32 : a.bitCnt ≠ 32) :
    Assembler.Legal { a with win := .empty, winCnt := 0, acc := shlIn a.acc b, bitCnt := a.bitCnt + 1 } := by
  obtain ⟨-, -, hbits, hacc⟩ := h
  have hlt : a.bitCnt.toNat < 32 := by bv_omega
  have hsucc : (a.bitCnt + 1).toNat = a.bitCnt.toNat + 1 := by bv_omega
  refine ⟨fun hs => by simp [hm] at hs, by simp, ?_, fun _ => ?_⟩
  · rw [hsucc]
    exact hlt
  · rw [hsucc]
    exact shlIn_toNat_lt b (hacc hlt)

/-- A data event that waits in the window (R207): the slot of the cursor now holds it, and the cursor has passed it. -/
theorem appendedEvent_legal {a : Assembler} {c : EvCode} (hm : a.mode = .accumulating) (h : a.Legal)
    (hc : isDataCode c = true) (h3 : a.winCnt.toNat < 3) :
    Assembler.Legal
      { a with win := a.win.set a.winCnt.toFin c, winCnt := BitVec.ofNat 2 (a.winCnt.toNat + 1) } := by
  obtain ⟨-, hwin, hbits, hacc⟩ := h
  have hsucc : (BitVec.ofNat 2 (a.winCnt.toNat + 1)).toNat = a.winCnt.toNat + 1 := by
    rw [BitVec.toNat_ofNat]
    exact Nat.mod_eq_of_lt (by omega)
  refine ⟨fun hs => by simp [hm] at hs, fun i => ?_, hbits, hacc⟩
  have hi := hwin i
  rw [hsucc, Window.get_set]
  by_cases heq : i = a.winCnt.toFin
  · subst heq
    have hlt : (a.winCnt.toFin).val < a.winCnt.toNat + 1 := Nat.lt_succ_self _
    rw [if_pos hlt, if_pos rfl]
    exact hc
  · have hne : i.val ≠ a.winCnt.toNat := fun hv => heq (Fin.ext hv)
    have hiff : i.val < a.winCnt.toNat + 1 ↔ i.val < a.winCnt.toNat := by omega
    simpa only [if_neg heq, hiff] using hi

theorem shiftMatchedBit_legal {a : Assembler} (b : Bool) (hm : a.mode = .accumulating) (h : a.Legal) :
    (shiftMatchedBit b a).2.Legal := by
  unfold shiftMatchedBit
  split
  · exact invalidate_legal _ a
  · exact shiftedBit_legal b hm h ‹_›

theorem appendEvent_legal {a : Assembler} {c : EvCode} (hm : a.mode = .accumulating) (h : a.Legal)
    (hc : isDataCode c = true) : (appendEvent c a).2.Legal := by
  obtain ⟨h3, heq⟩ | ⟨-, b, -, h32, heq⟩ | ⟨-, -, -, heq⟩ | ⟨-, -, heq⟩ := appendEvent_cases c a <;> rw [heq]
  · exact appendedEvent_legal hm h hc h3
  · exact shiftedBit_legal b hm h h32
  · exact invalidate_legal _ a
  · exact invalidate_legal _ a

theorem whenAccumulating_legal {f : Assembler → Stage2Out × Assembler} {a : Assembler} (h : a.Legal)
    (hf : a.mode = .accumulating → (f a).2.Legal) : (whenAccumulating f a).2.Legal := by
  rcases hm : a.mode with _ | _
  · rw [whenAccumulating_searching hm]
    exact h
  · rw [whenAccumulating_accumulating hm]
    exact hf hm

theorem advance_legal {a : Assembler} (ev : Event) (h : a.Legal) : (advance a ev).2.Legal := by
  obtain ⟨heq, -⟩ | ⟨-, heq⟩ | ⟨-, -, -, heq⟩ | ⟨-, -, heq⟩ | ⟨hm, hdata, heq⟩ := advance_cases a ev <;> rw [heq]
  · exact h
  · exact rearm_legal a
  · exact completeFrame_legal a
  · exact invalidate_legal _ a
  · exact appendEvent_legal hm h hdata

/-- A run of stage 2 yields no packet or no cause (R276). -/
theorem advance_no_raw_or_no_cause (a : Assembler) (ev : Event) :
    (advance a ev).1.raw = none ∨ (advance a ev).1.cause = 0 := by
  obtain ⟨heq, -⟩ | ⟨-, heq⟩ | ⟨-, -, -, heq⟩ | ⟨-, -, heq⟩ | ⟨-, -, heq⟩ := advance_cases a ev <;> rw [heq]
  · exact .inl rfl
  · exact .inl rfl
  · exact .inr rfl
  · exact .inl rfl
  · obtain ⟨-, heq⟩ | ⟨-, b, -, -, heq⟩ | ⟨-, -, -, heq⟩ | ⟨-, -, heq⟩ := appendEvent_cases ev.code a <;>
      rw [heq] <;> exact .inl rfl

/-! ### Stages 0 and 3 keep the duplicate record legal (R41-R43, R55) and the outputs consistent -/

theorem countdown_legal {p : Params} {f : DupFilter} (h : f.Legal p) : (countdown f).Legal p := by
  obtain ⟨hcnt, hvalid, hraw⟩ := h
  obtain ⟨-, heq⟩ | ⟨-, heq⟩ | ⟨h0, h1, heq⟩ := countdown_cases f <;> rw [heq]
  · exact ⟨hcnt, hvalid, hraw⟩
  · exact ⟨Nat.zero_le _, by decide, fun _ => rfl⟩
  · have hle : (f.cdCnt - 1).toNat ≤ f.cdCnt.toNat := by bv_omega
    have hne : f.cdCnt - 1 ≠ 0 := by bv_omega
    exact ⟨hle.trans hcnt, ⟨fun _ => hne, fun _ => hvalid.mpr h0⟩, hraw⟩

/-- The countdown stores nothing new: a value it leaves stored was stored before. -/
theorem countdown_lastRaw {f : DupFilter} (h : (countdown f).lastValid = true) :
    f.lastValid = true ∧ (countdown f).lastRaw = f.lastRaw := by
  obtain ⟨-, heq⟩ | ⟨-, heq⟩ | ⟨-, -, heq⟩ := countdown_cases f <;> rw [heq] at h ⊢
  · exact ⟨h, rfl⟩
  · cases h
  · exact ⟨h, rfl⟩

/-- The reload value fits CD_CNT's 16 bits (R11, R43). -/
theorem toNat_cooldownTicks {p : Params} (h : p.Legal) :
    (BitVec.ofNat 16 p.cooldownTicks).toNat = p.cooldownTicks := by
  obtain ⟨-, -, -, -, -, -, -, -, hmax⟩ := h
  rw [BitVec.toNat_ofNat]
  exact Nat.mod_eq_of_lt (by omega)

theorem filterRaw_legal {p : Params} {f : DupFilter} (hp : p.Legal) (raw : Option Raw) (h : f.Legal p) :
    (filterRaw p raw f).dupFilter.Legal p := by
  obtain ⟨-, heq⟩ | ⟨-, -, heq⟩ | ⟨v, -, -, heq⟩ := filterRaw_cases p raw f <;> rw [heq]
  · exact h
  · exact h
  · have hload := toNat_cooldownTicks hp
    obtain ⟨-, -, -, -, -, -, -, hmin, -⟩ := hp
    have hne : BitVec.ofNat 16 p.cooldownTicks ≠ 0 := fun h0 => by
      rw [h0] at hload
      simp only [BitVec.ofNat_eq_ofNat, BitVec.toNat_ofNat, Nat.zero_mod] at hload
      omega
    exact ⟨hload.le, ⟨fun _ => hne, fun _ => rfl⟩, fun h0 => by cases h0⟩

/-- The outputs of a tick are consistent with the record it leaves (R141, R246, R276). -/
theorem afterTick_consistent {p : Params} {o : OutputRegs} {f : DupFilter} {raw : Option Raw} {cause : CauseCode}
    (ev : Event) (hrec : f.lastValid = true → f.lastRaw = o.pktRaw) (hexcl : raw = none ∨ cause = 0) :
    (o.afterTick ev.code cause (filterRaw p raw f).dup (filterRaw p raw f).accepted).Consistent
      (filterRaw p raw f).dupFilter := by
  refine ⟨code_ne_seven ev, ?_⟩
  obtain ⟨-, heq⟩ | ⟨hraw, -, heq⟩ | ⟨v, hraw, -, heq⟩ := filterRaw_cases p raw f
  · simpa [heq] using hrec
  · have hcause : cause = 0 := hexcl.resolve_left (by simp [hraw])
    simpa [heq, hcause] using hrec
  · have hcause : cause = 0 := hexcl.resolve_left (by simp [hraw])
    simp [heq, hcause]

/-! ### What a clock can do to the state -/

/-- An action of stage 2 alone: an event, a data bit's quartet, or a malformed quartet (formats EV and Q). -/
inductive Stage2Action : (Assembler → Stage2Out × Assembler) → Prop
  | event (ev : Event) : Stage2Action (fun a => advance a ev)
  | matched (b : Bool) : Stage2Action (onMatchedQuartet b)
  | malformed : Stage2Action onMalformedQuartet

theorem Stage2Action.legal {f : Assembler → Stage2Out × Assembler} (hf : Stage2Action f) {a : Assembler}
    (h : a.Legal) : (f a).2.Legal := by
  cases hf with
  | event ev => exact advance_legal ev h
  | matched b => exact whenAccumulating_legal h fun hm => shiftMatchedBit_legal b hm h
  | malformed => exact whenAccumulating_legal h fun _ => invalidate_legal _ a

/-- The four ways the machine goes on from `s` once a word is taken, each with what it asks for. -/
inductive Transition (s : State) : State → Prop
  | reset (hp : s.params.Legal) : Transition s (resetState s)
  | idle (hp : s.params.Legal) : Transition s (idleState s)
  | tick (b : Bool) (hs : s.Legal) : Transition s (tickState b s)
  | stage2 {f : Assembler → Stage2Out × Assembler} (hf : Stage2Action f) (hs : s.Legal) :
      Transition s (assemblerState f s)

theorem transition_of_stage2 {f : Assembler → Stage2Out × Assembler} {s t : State} (hf : Stage2Action f)
    (h : ifReachable s (assemblerState f s) = .next t) : Transition s t := by
  obtain ⟨hs, rfl⟩ := ifReachable_eq_next h
  exact .stage2 hf hs

theorem transition_of_tick {b : Bool} {s t : State} (h : ifReachable s (tickState b s) = .next t) :
    Transition s t := by
  obtain ⟨hs, rfl⟩ := ifReachable_eq_next h
  exact .tick b hs

theorem transition_of_exec {i : Instr} {s t : State} (h : exec i s = .next t) : Transition s t := by
  cases i with
  | reset =>
    obtain ⟨hp, rfl⟩ := ifConfigured_eq_next h
    exact .reset hp
  | nop =>
    obtain ⟨hp, rfl⟩ := ifConfigured_eq_next h
    exact .idle hp
  | tick0 | tick1 => exact transition_of_tick h
  | evNone => exact transition_of_stage2 (.event .none) h
  | evInvalid => exact transition_of_stage2 (.event .invalid) h
  | evHighShort => exact transition_of_stage2 (.event .highShort) h
  | evLowShort => exact transition_of_stage2 (.event .lowShort) h
  | evLowLong => exact transition_of_stage2 (.event .lowLong) h
  | evSync => exact transition_of_stage2 (.event .sync) h
  | evPause => exact transition_of_stage2 (.event .pause) h
  | evReserved7 => cases h
  | qBit0 => exact transition_of_stage2 (.matched false) h
  | qBit1 => exact transition_of_stage2 (.matched true) h

/-- A step that goes on holds the state, or takes a word and makes a transition. -/
theorem step_eq_next {s t : State} (h : step s = .next t) :
    (s.input = [] ∧ t = s) ∨ ∃ x rest, s.input = x :: rest ∧ Transition (s.feed rest) t := by
  rcases hin : s.input with _ | ⟨x, rest⟩
  · rw [step_of_no_input hin] at h
    cases h
    exact .inl ⟨rfl, rfl⟩
  · rw [step_of_input hin] at h
    refine .inr ⟨x, rest, rfl, ?_⟩
    rcases hd : decode x with ⟨⟨⟩⟩ | i <;> rw [hd] at h
    · exact transition_of_stage2 .malformed h
    · exact transition_of_exec h

theorem Transition.keeps_params {s t : State} (h : Transition s t) : t.params = s.params := by
  cases h <;> rfl

theorem Transition.keeps_input {s t : State} (h : Transition s t) : t.input = s.input := by
  cases h <;> rfl

theorem step_keeps_params {s t : State} (h : step s = .next t) : t.params = s.params := by
  obtain ⟨-, rfl⟩ | ⟨x, rest, -, htr⟩ := step_eq_next h
  · rfl
  · exact htr.keeps_params

/-! ### Suppression of a repeated HIGH_SHORT (R56) -/

/-- R56 for the tick of either sample. -/
theorem tickState_highShort (b : Bool) (s : State) :
    ((tickState b s).outputs.evCode = 2 → (tickState b s).classifier.lastEv = 2) ∧
    (s.classifier.lastEv = 2 →
      (tickState b s).outputs.evCode ≠ 2 ∧
        ((tickState b s).outputs.evCode = 0 → (tickState b s).classifier.lastEv = 2)) := by
  have hcode : (tickState b s).outputs.evCode = (classify s.params s.classifier b).1.code := rfl
  rw [hcode, tickState_classifier, classify_lastEv]
  simp only [Ne, code_eq_two_iff, code_eq_zero_iff]
  refine ⟨fun hev => ?_, fun hlast => ⟨classify_ne_highShort b hlast, fun hev => ?_⟩⟩
  · rw [hev]
    rfl
  · rw [hev]
    exact hlast

/-! ### The invariant of the machine -/

theorem reset_registers_legal (p : Params) : Regs.reset.Legal p :=
  ⟨⟨Nat.zero_le _, Nat.zero_le _, by decide, .inl rfl⟩, by decide, ⟨Nat.zero_le _, by decide, fun _ => rfl⟩⟩

/-- The state after reset, at any legal parameters, meets the invariant. -/
theorem inv_of_reset_registers {s : State} (hp : s.params.Legal) (hr : s.toRegs = Regs.reset) : s.Inv := by
  refine ⟨⟨hp, hr ▸ reset_registers_legal _⟩, ?_⟩
  rw [hr]
  decide

theorem clearPulses_consistent {o : OutputRegs} {f : DupFilter} (h : o.Consistent f) :
    o.clearPulses.Consistent f := by
  obtain ⟨hcode, -, -, -, hrec⟩ := h
  exact ⟨hcode, by simp, by simp, by simp, hrec⟩

theorem tickState_legal {s : State} (b : Bool) (h : s.Legal) : (tickState b s).Legal := by
  obtain ⟨hp, hcls, hasm, hdup⟩ := h
  exact ⟨hp, classify_legal b hcls, advance_legal _ hasm, filterRaw_legal hp _ (countdown_legal hdup)⟩

theorem tickState_consistent {s : State} (b : Bool) (h : s.outputs.Consistent s.dupFilter) :
    (tickState b s).outputs.Consistent (tickState b s).dupFilter := by
  obtain ⟨-, -, -, -, hrec⟩ := h
  refine afterTick_consistent _ (fun hvalid => ?_) (advance_no_raw_or_no_cause _ _)
  obtain ⟨hstored, hsame⟩ := countdown_lastRaw hvalid
  rw [hsame]
  exact hrec hstored

theorem assemblerState_legal {f : Assembler → Stage2Out × Assembler} {s : State} (hf : Stage2Action f)
    (h : s.Legal) : (assemblerState f s).Legal := by
  obtain ⟨hp, hcls, hasm, hdup⟩ := h
  exact ⟨hp, hcls, hf.legal hasm, hdup⟩

theorem Transition.keeps_inv {s t : State} (h : Transition s t) (hs : s.Inv) : t.Inv := by
  obtain ⟨hlegal, hout⟩ := hs
  cases h with
  | reset hp => exact inv_of_reset_registers hp rfl
  | idle => exact ⟨hlegal, clearPulses_consistent hout⟩
  | tick b => exact ⟨tickState_legal b hlegal, tickState_consistent b hout⟩
  | stage2 hf => exact ⟨assemblerState_legal hf hlegal, hout⟩

/-- What every step keeps, a run keeps. -/
theorem runClocks_keeps {P : State → Prop} (hstep : ∀ s t, P s → step s = .next t → P t) {n : Nat} {s t : State}
    (hs : P s) (h : runClocks n s = .next t) : P t := by
  induction n generalizing s with
  | zero =>
    cases h
    exact hs
  | succ n ih =>
    obtain ⟨u, hu, hrun⟩ := runClocks_succ_eq_next h
    exact ih (hstep s u hs hu) hrun

/-! ### The statements -/

/-- Settles O56: a step holds the state or makes one of the four transitions, and each keeps the invariant. -/
theorem stepKeepsInvariant : Obligations.StepKeepsInvariant := by
  intro s t hs h
  obtain ⟨-, rfl⟩ | ⟨x, rest, -, htr⟩ := step_eq_next h
  · exact hs
  · exact htr.keeps_inv hs

/-- Settles O22: the counter of the sample is counted up to a positive bound, the other is cleared. -/
theorem exactlyOneRunAfterTick : Obligations.ExactlyOneRunAfterTick := by
  refine ⟨⟨rfl, rfl⟩, fun s hs => ?_⟩
  have hceil := hs.1.guardCeil_ne_zero
  have ⟨_, ⟨hzero, _, _, hone⟩, _⟩ := hs
  refine ⟨hone, ⟨_, ifReachable_next hs, ?_, rfl⟩, ⟨_, ifReachable_next hs, ?_, rfl⟩⟩
  · rw [tickState_classifier, classify_low_zeroRun hzero]
    omega
  · rw [tickState_classifier, classify_high_oneRun]
    omega

/-- Settles O23: both ticks are `tickState`, whose event and recorded event are those of stage 1. -/
theorem highShortSuppressedWhileLast : Obligations.HighShortSuppressedWhileLast := by
  intro s hs i hi
  obtain rfl | rfl := List.mem_pair.mp hi
  · exact ⟨_, ifReachable_next hs, tickState_highShort false s⟩
  · exact ⟨_, ifReachable_next hs, tickState_highShort true s⟩

/-- Settles O57: the invariant holds after reset and every step keeps it and the parameters; R52-R55 are the assembler's
and the filter's part of it. -/
theorem reachableStatesAreLegal : Obligations.ReachableStatesAreLegal := by
  intro p xs n t hp h
  have hreach : t.Inv ∧ t.params = p :=
    runClocks_keeps (P := fun s => s.Inv ∧ s.params = p)
      (fun s u hs hu => ⟨stepKeepsInvariant s u hs.1 hu, (step_keeps_params hu).trans hs.2⟩)
      ⟨inv_of_reset_registers hp rfl, rfl⟩ h
  obtain ⟨⟨hlegal, -⟩, hparams⟩ := hreach
  have ⟨_, _, ⟨hsearch, hwin, hbits⟩, _, hstored⟩ := hlegal
  refine ⟨hlegal, hparams, fun hm => ?_, fun k => ?_, hbits, hstored⟩
  · obtain ⟨hw, hcnt, hacc, hbit⟩ := hsearch hm
    exact ⟨hcnt, hw, hacc, hbit⟩
  · simpa only [isDataCode_iff] using hwin k

/-- Settles O12: the registers of `State.reset` are the table of R50. -/
theorem resetRegisterValues : Obligations.ResetRegisterValues := ⟨rfl, rfl, rfl, rfl, rfl⟩

/-- Settles O51: none of the four transitions writes the parameters or the coming words. -/
theorem operationsKeepParametersAndInput : Obligations.OperationsKeepParametersAndInput :=
  fun _ _ _ h => ⟨(transition_of_exec h).keeps_params, (transition_of_exec h).keeps_input⟩

end Sys2Proof.Machine
end

section
/-!
PROOFS. The statements of spec/30_encoding.md: the decoder on words and directives (R91-R98, R106-R108), the events of
low and high runs (R104) and the frame on the composed core (R101, R107). A run of tick words is `ticks` of its samples
(`runClocks_tickWords`); `classifyRun` and `assembleRun` are stages 1 and 2 over a run, and `ticks_classifier` and
`ticks_assembler` tie them to it.
-/

namespace Sys2Proof.Machine

/-! ### Decoding (R91, R94, R97, R98) -/

/-- The rows of format Q are matched on all twelve bits, and no other row is of that format. -/
theorem decode_quartet (q : QuartetWord) :
    decode (.quartet q) =
      if q = 0x4D4 then .ok .qBit0 else if q = 0x513 then .ok .qBit1 else .error .malformedQuartet := by
  have hmask : q &&& 0xFFF#12 = q := BitVec.and_allOnes
  by_cases h0 : q = 0x4D4#12
  · subst h0
    rfl
  · by_cases h1 : q = 0x513#12
    · subst h1
      rfl
    · simp [decode, opcodeTable, portRows, eventRows, quartetRows, OpcodeRow.fits, Stimulus.format, Stimulus.word,
        hmask, h0, h1]

/-- The bits of a quartet word, slot by slot (R97). -/
theorem getLsbD_quartetWordOf (a b c d : EvCode) (i : Nat) :
    (quartetWordOf a b c d).getLsbD i =
      if i < 3 then d.getLsbD i else if i < 6 then c.getLsbD (i - 3)
      else if i < 9 then b.getLsbD (i - 6) else a.getLsbD (i - 9) := by
  change BitVec.getLsbD (w := 3 + 3 + 3 + 3) (a ++ b ++ c ++ d) i = _
  simp only [BitVec.getLsbD_append, Nat.sub_sub]
  grind only

/-- The slots of a window in its quartet word (R97). -/
theorem Window.word_slots (w : Window) :
    w.word.extractLsb' 9 3 = w.w0 ∧ w.word.extractLsb' 6 3 = w.w1 ∧ w.word.extractLsb' 3 3 = w.w2 ∧
      w.word.extractLsb' 0 3 = w.w3 := by
  unfold Window.word
  and_intros <;>
    (refine BitVec.eq_of_getLsbD_eq fun i hi => ?_
     simp (disch := omega) only [BitVec.getLsbD_extractLsb', getLsbD_quartetWordOf, hi, if_pos, if_neg, decide_true,
       Bool.true_and, Nat.add_sub_cancel_left, Nat.zero_add, if_true])

theorem word_windowOfWord (q : QuartetWord) : (windowOfWord q).word = q := by
  have hslot (i k : Nat) (hk : k ≤ i) (hlt : i - k < 3) : (q.extractLsb' k 3).getLsbD (i - k) = q.getLsbD i := by
    simp [hlt, Nat.add_sub_cancel' hk]
  refine BitVec.eq_of_getLsbD_eq fun i hi => ?_
  rw [windowOfWord, Window.word, getLsbD_quartetWordOf]
  split_ifs
  · exact hslot i 0 (by omega) (by omega)
  · exact hslot i 3 (by omega) (by omega)
  · exact hslot i 6 (by omega) (by omega)
  · exact hslot i 9 (by omega) (by omega)

theorem Directive.decode_words (d : Directive) :
    d.words.map (fun w => decode (.port w)) = d.ops.map .ok := by
  cases d with
  | rst => rfl
  | nop n | low n | high n =>
    simp only [Directive.words, Directive.ops, List.map_replicate]
    rfl

/-! ### Samples: the words of the pulses (R106, R107) -/

/-- The samples of a high pulse of `h` ticks and the low pulse of `l` ticks after it. -/
def pulseSamples (h l : Nat) : List Bool := List.replicate h true ++ List.replicate l false

/-- The samples of a data bit: two high pulses with a low pulse after each (R99, R107). -/
def bitSamples (b : Bool) : List Bool :=
  if b then pulseSamples 4 24 ++ pulseSamples 4 6 else pulseSamples 4 6 ++ pulseSamples 4 24

/-- The samples of `FRAME v` (R107). -/
def frameSamples (v : Raw) : List Bool :=
  pulseSamples 4 50 ++ (bitsMsbFirst v).flatMap bitSamples ++ pulseSamples 4 60

@[simp] theorem directiveWords_append (ds es : List Directive) :
    directiveWords (ds ++ es) = directiveWords ds ++ directiveWords es := List.flatMap_append

@[simp] theorem directiveWords_cons (d : Directive) (ds : List Directive) :
    directiveWords (d :: ds) = d.words ++ directiveWords ds := List.flatMap_cons

@[simp] theorem directiveWords_nil : directiveWords [] = [] := rfl

theorem pulseSamples_words (h l : Nat) :
    directiveWords [.high h, .low l] = (pulseSamples h l).map tickWord := by
  simp [pulseSamples, Directive.words, tickWord]

theorem bitDirectives_words (b : Bool) : directiveWords (bitDirectives b) = (bitSamples b).map tickWord := by
  cases b <;> rfl

theorem directiveWords_flatMap {α : Type} (f : α → List Directive) (xs : List α) :
    directiveWords (xs.flatMap f) = xs.flatMap (fun x => directiveWords (f x)) := List.flatMap_assoc

theorem frameDirectives_words (v : Raw) :
    directiveWords (PseudoDirective.frame v).directives = (frameSamples v).map tickWord := by
  simp only [PseudoDirective.directives, frameSamples, directiveWords_append, directiveWords_flatMap,
    pulseSamples_words, bitDirectives_words, List.map_append, List.map_flatMap]

theorem pulseSamples_length (h l : Nat) : (pulseSamples h l).length = h + l := by simp [pulseSamples]

theorem bitSamples_length (b : Bool) : (bitSamples b).length = 38 := by cases b <;> rfl

theorem bitsMsbFirst_length (v : Raw) : (bitsMsbFirst v).length = 32 := by simp [bitsMsbFirst]

theorem frameSamples_length (v : Raw) : (frameSamples v).length = 1334 := by
  simp [frameSamples, List.length_flatMap, pulseSamples_length, bitSamples_length, bitsMsbFirst_length]

theorem bitsMsbFirst_eq_reverse (v : Raw) : bitsMsbFirst v = (List.range 32).reverse.map v.getLsbD := by
  have hrev : (List.range 32).reverse = (List.range 32).map (31 - ·) := by decide
  rw [bitsMsbFirst, hrev, List.map_map]
  refine List.map_congr_left fun k hk => ?_
  have hlt : k < 32 := List.mem_range.mp hk
  simp [BitVec.getMsbD, hlt]

theorem tickWord_cases (b : Bool) : tickWord b = 0b010 ∨ tickWord b = 0b011 := by cases b <;> decide

/-- Every expansion is the ticks of some samples (R107). -/
theorem PseudoDirective.words_eq_samples (d : PseudoDirective) :
    ∃ bs : List Bool, directiveWords d.directives = bs.map tickWord := by
  cases d with
  | frame v => exact ⟨_, frameDirectives_words v⟩
  | idle n => exact ⟨List.replicate n false, by simp [PseudoDirective.directives, Directive.words, tickWord]⟩
  | bit0 | bit1 => exact ⟨_, bitDirectives_words _⟩
  | start | stop => exact ⟨_, pulseSamples_words _ _⟩
  | shortH => exact ⟨List.replicate 4 true, rfl⟩
  | shortL => exact ⟨List.replicate 6 false, rfl⟩
  | longL => exact ⟨List.replicate 24 false, rfl⟩
  | syncL => exact ⟨List.replicate 50 false, rfl⟩
  | pauseL => exact ⟨List.replicate 60 false, rfl⟩

/-- FRAME by START, the bits from 31 down to 0, and STOP (R73, R107). -/
theorem frameDirectives_eq (v : Raw) :
    directiveWords (PseudoDirective.frame v).directives =
      directiveWords PseudoDirective.start.directives ++
        (List.range 32).reverse.flatMap (fun i =>
          if v.getLsbD i then directiveWords PseudoDirective.bit1.directives
          else directiveWords PseudoDirective.bit0.directives) ++
        directiveWords PseudoDirective.stop.directives := by
  have hbit (b : Bool) : directiveWords (bitDirectives b) =
      if b then directiveWords PseudoDirective.bit1.directives
      else directiveWords PseudoDirective.bit0.directives := by cases b <;> rfl
  change directiveWords (_ ++ _ ++ _) = _
  rw [directiveWords_append, directiveWords_append, directiveWords_flatMap, bitsMsbFirst_eq_reverse, List.flatMap_map]
  simp only [hbit]
  rfl

/-! ### Runs of ticks -/

/-- The state after the ticks of some samples. -/
def ticks (bs : List Bool) (s : State) : State := bs.foldl (fun t b => tickState b t) s

@[simp] theorem ticks_nil (s : State) : ticks [] s = s := rfl

@[simp] theorem ticks_cons (b : Bool) (bs : List Bool) (s : State) : ticks (b :: bs) s = ticks bs (tickState b s) := rfl

theorem ticks_append (bs cs : List Bool) (s : State) : ticks (bs ++ cs) s = ticks cs (ticks bs s) :=
  List.foldl_append

@[simp] theorem ticks_params (bs : List Bool) (s : State) : (ticks bs s).params = s.params := by
  induction bs generalizing s with
  | nil => rfl
  | cons b bs ih => exact ih _

theorem ticks_legal {s : State} (bs : List Bool) (h : s.Legal) : (ticks bs s).Legal := by
  induction bs generalizing s with
  | nil => exact h
  | cons b bs ih => exact ih (tickState_legal b h)

/-- From a legal state the clocks of tick words are the ticks of their samples (R132, R133). -/
theorem runClocks_tickWords {s : State} (h : s.Legal) (bs : List Bool) (ws : List InWord) :
    runClocks bs.length (s.feedWords (bs.map tickWord ++ ws)) = .next ((ticks bs s).feedWords ws) := by
  induction bs generalizing s with
  | nil => rfl
  | cons b bs ih =>
    have hstep := step_tickWord h b (bs.map tickWord ++ ws)
    exact (runClocks_succ _ hstep).trans (ih (tickState_legal b h))

/-- The run on the words of some samples alone. -/
theorem runClocks_samples {s : State} (h : s.Legal) (bs : List Bool) :
    runClocks bs.length (s.feedWords (bs.map tickWord)) = .next ((ticks bs s).feedWords []) := by
  simpa using runClocks_tickWords h bs []

/-! ### Stage 1 over runs of samples -/

/-- The events of some samples, NONE left out, and the classifier after them. -/
def classifyRun (p : Params) (c : Classifier) : List Bool → List Event × Classifier
  | [] => ([], c)
  | b :: bs =>
    let first := classify p c b
    let rest := classifyRun p first.2 bs
    (if first.1 = .none then rest.1 else first.1 :: rest.1, rest.2)

@[simp] theorem classifyRun_nil (p : Params) (c : Classifier) : classifyRun p c [] = ([], c) := rfl

theorem classifyRun_cons (p : Params) (c : Classifier) (b : Bool) (bs : List Bool) :
    classifyRun p c (b :: bs) =
      (if (classify p c b).1 = .none then (classifyRun p (classify p c b).2 bs).1
        else (classify p c b).1 :: (classifyRun p (classify p c b).2 bs).1,
       (classifyRun p (classify p c b).2 bs).2) := rfl

theorem classifyRun_append {p : Params} {c c' c'' : Classifier} {bs cs : List Bool} {es fs : List Event}
    (h : classifyRun p c bs = (es, c')) (h' : classifyRun p c' cs = (fs, c'')) :
    classifyRun p c (bs ++ cs) = (es ++ fs, c'') := by
  induction bs generalizing c es with
  | nil =>
    cases h
    exact h'
  | cons b bs ih =>
    rw [classifyRun_cons, Prod.mk.injEq] at h
    obtain ⟨hes, hc⟩ := h
    rw [List.cons_append, classifyRun_cons, ih (Prod.ext rfl hc), ← hes]
    split <;> rfl

theorem classifyRun_concat (p : Params) (c : Classifier) (bs : List Bool) (b : Bool) :
    (classifyRun p c (bs ++ [b])).2 = (classify p (classifyRun p c bs).2 b).2 := by
  rw [classifyRun_append (Prod.eta _).symm rfl]
  rfl

theorem ticks_classifier (bs : List Bool) (s : State) :
    (ticks bs s).classifier = (classifyRun s.params s.classifier bs).2 := by
  induction bs generalizing s with
  | nil => rfl
  | cons b bs ih => exact ih _

/-- The event of the last tick of a run. -/
theorem ticks_concat_evCode (bs : List Bool) (b : Bool) (s : State) :
    (ticks (bs ++ [b]) s).outputs.evCode = (classify s.params (classifyRun s.params s.classifier bs).2 b).1.code := by
  rw [ticks_append, ← ticks_classifier, ← ticks_params bs s]
  rfl

/-! ### Low runs (R104, R170-R172) -/

theorem classifyRun_low_zeroRun {p : Params} {c : Classifier} (h : c.zeroRun ≤ p.guardCeil) (n : Nat) :
    (classifyRun p c (List.replicate n false)).2.zeroRun = min (c.zeroRun + n) p.guardCeil := by
  induction n with
  | zero => exact (min_eq_left h).symm
  | succ n ih =>
    rw [List.replicate_succ', classifyRun_concat, classify_low_zeroRun (by omega), ih]
    omega

/-- The event of a 0 sample that makes the low run `n + 1` ticks long, the zero run counted up to the ceiling. -/
theorem lowRunEvent_code {p : Params} (hp : p.Legal) (n : Nat) :
    (lowRunEvent p (min n p.guardCeil)).code =
      if n + 1 = p.endThresh then 6 else if p.guardCeil < n + 1 then 1 else 0 := by
  obtain ⟨-, -, -, -, -, hguard, -⟩ := hp
  obtain ⟨hev, h, h'⟩ | ⟨hev, h, h'⟩ | ⟨hev, h⟩ := lowRunEvent_cases p (min n p.guardCeil) <;> rw [hev]
  · rw [if_pos (by omega)]
    rfl
  · rw [if_neg (by omega), if_neg (by omega)]
    rfl
  · rw [if_neg (by omega), if_pos (by omega)]
    rfl

/-! ### High runs (R104, R166-R168) -/

/-- LAST_EV after the first tick of a high run: the event of the ended low run, if it was in a window (R162-R165). -/
def firstHighLastEv (p : Params) (c : Classifier) : EvCode :=
  recordEvent c.lastEv ((endedLowEvent p c.zeroRun).getD .none)

/-- LAST_EV after `n` ticks of a high run, from its value `first` after the first (R166-R168, R173). -/
def highRunLastEv (p : Params) (first : EvCode) (n : Nat) : EvCode :=
  if p.hsMax < n then 1 else if p.hsMin ≤ n then 2 else first

/-- The event of the tick that makes a high run `n + 1` ticks long, by LAST_EV after its first tick. -/
def highRunEventAt (p : Params) (first : EvCode) (n : Nat) : Event :=
  if p.hsMax < n + 1 then .invalid else if n + 1 = p.hsMin ∧ first ≠ 2 then .highShort else .none

theorem highRunEvent_of_run (p : Params) (first : EvCode) (n : Nat) :
    highRunEvent p (min (n + 1) (p.hsMax + 1)) (highRunLastEv p first n) = highRunEventAt p first n := by
  unfold highRunEventAt
  by_cases hmax : p.hsMax < n + 1
  · rw [if_pos hmax, highRunEvent, if_pos (by omega)]
  · have hmin : min (n + 1) (p.hsMax + 1) = n + 1 := by omega
    have hlast : highRunLastEv p first n = if p.hsMin ≤ n then 2 else first := if_neg (by omega)
    rw [if_neg hmax, hmin, hlast]
    obtain ⟨-, h⟩ | ⟨hev, hlo, -, hne⟩ | ⟨hev, -, hnone⟩ :=
      highRunEvent_cases p (n + 1) (if p.hsMin ≤ n then 2 else first)
    · exact absurd h hmax
    · rw [hev]
      split at hne
      · exact absurd rfl hne
      · rw [if_pos ⟨by omega, hne⟩]
    · rw [hev, if_neg]
      rintro ⟨heq, hne⟩
      rw [if_neg (by omega)] at hnone
      exact hnone.elim (by omega) hne

theorem recordEvent_highRunEventAt (p : Params) (first : EvCode) (n : Nat) :
    recordEvent (highRunLastEv p first n) (highRunEventAt p first n) = highRunLastEv p first (n + 1) := by
  unfold highRunEventAt highRunLastEv
  by_cases hmax : p.hsMax < n + 1
  · simp only [if_pos hmax]
    rfl
  · have hmax' : ¬ p.hsMax < n := by omega
    simp only [if_neg hmax, if_neg hmax']
    by_cases hmin : n + 1 = p.hsMin ∧ first ≠ 2
    · rw [if_pos hmin, if_pos hmin.1.ge]
      rfl
    · rw [if_neg hmin]
      change (if p.hsMin ≤ n then 2 else first) = _
      grind

/-- A 1 sample in a high run: no zero run has ended (R162). -/
theorem classify_high_of_zeroRun {p : Params} (hp : p.Legal) (o : Nat) (last : EvCode) :
    classify p ⟨0, o, last⟩ true =
      (highRunEvent p (min (o + 1) (p.hsMax + 1)) last,
       ⟨0, min (o + 1) (p.hsMax + 1), recordEvent last (highRunEvent p (min (o + 1) (p.hsMax + 1)) last)⟩) := by
  simp only [classify, if_true, classifyHigh, endedLowEvent_zero hp, Option.getD_none, satInc]

theorem classify_high_at {p : Params} (hp : p.Legal) (first : EvCode) (n : Nat) :
    classify p ⟨0, min n (p.hsMax + 1), highRunLastEv p first n⟩ true =
      (highRunEventAt p first n, ⟨0, min (n + 1) (p.hsMax + 1), highRunLastEv p first (n + 1)⟩) := by
  have hone : min (min n (p.hsMax + 1) + 1) (p.hsMax + 1) = min (n + 1) (p.hsMax + 1) := by omega
  rw [classify_high_of_zeroRun hp, hone, highRunEvent_of_run, recordEvent_highRunEventAt]

/-- The first tick of a high run: too short for HIGH_SHORT (R11 item 7). -/
theorem classify_first_high {p : Params} (hp : p.Legal) {c : Classifier} (h : c.oneRun = 0) :
    classify p c true = ((endedLowEvent p c.zeroRun).getD .none, ⟨0, 1, firstHighLastEv p c⟩) := by
  obtain ⟨-, -, -, -, -, -, ⟨hmin, hmax⟩, -⟩ := hp
  have hsat : satInc c.oneRun (p.hsMax + 1) = 1 := by
    rw [satInc, h]
    omega
  have hnone : highRunEvent p 1 c.lastEv = .none := by
    obtain ⟨-, h⟩ | ⟨-, h, -⟩ | ⟨hev, -⟩ := highRunEvent_cases p 1 c.lastEv
    · omega
    · omega
    · exact hev
  simp only [classify, if_true, classifyHigh, hsat, hnone, firstHighLastEv]

/-- The classifier after a high run (R161, R166-R168). -/
theorem classifyRun_high {p : Params} (hp : p.Legal) {c : Classifier} (h : c.oneRun = 0) (n : Nat) :
    (classifyRun p c (List.replicate (n + 1) true)).2 =
      ⟨0, min (n + 1) (p.hsMax + 1), highRunLastEv p (firstHighLastEv p c) (n + 1)⟩ := by
  induction n with
  | zero =>
    have ⟨_, _, _, _, _, _, ⟨hmin, hmax⟩, _⟩ := hp
    have hone : min 1 (p.hsMax + 1) = 1 := by omega
    have hlast : highRunLastEv p (firstHighLastEv p c) 1 = firstHighLastEv p c := by
      rw [highRunLastEv, if_neg (by omega), if_neg (by omega)]
    rw [Nat.zero_add, hone, hlast]
    exact congrArg Prod.snd (classify_first_high hp h)
  | succ n ih => rw [List.replicate_succ', classifyRun_concat, ih, classify_high_at hp]

/-- LAST_EV is HIGH_SHORT after the first tick only if it was before and no window ended it. -/
theorem firstHighLastEv_ne_two_iff (p : Params) (c : Classifier) :
    firstHighLastEv p c ≠ 2 ↔
      c.lastEv ≠ 2 ∨ (p.lsMin ≤ c.zeroRun ∧ c.zeroRun ≤ p.lsMax) ∨ (p.llMin ≤ c.zeroRun ∧ c.zeroRun ≤ p.llMax) ∨
        (p.syMin ≤ c.zeroRun ∧ c.zeroRun ≤ p.syMax) := by
  unfold firstHighLastEv
  obtain ⟨hev, hw⟩ | ⟨hev, hw⟩ | ⟨hev, hw⟩ | ⟨hev, h1, h2, h3⟩ := endedLowEvent_cases p c.zeroRun <;> rw [hev]
  · exact iff_of_true (by decide : (3 : EvCode) ≠ 2) (.inr (.inl hw))
  · exact iff_of_true (by decide : (4 : EvCode) ≠ 2) (.inr (.inr (.inl hw)))
  · exact iff_of_true (by decide : (5 : EvCode) ≠ 2) (.inr (.inr (.inr hw)))
  · simp only [h1, h2, h3, or_false]
    rfl

/-! ### Stage 2 over runs of events (R101, R226) -/

/-- The assembler after some events. -/
def assembleRun (a : Assembler) (es : List Event) : Assembler := es.foldl (fun a ev => (advance a ev).2) a

@[simp] theorem assembleRun_nil (a : Assembler) : assembleRun a [] = a := rfl

@[simp] theorem assembleRun_cons (a : Assembler) (ev : Event) (es : List Event) :
    assembleRun a (ev :: es) = assembleRun (advance a ev).2 es := rfl

theorem assembleRun_append (a : Assembler) (es fs : List Event) :
    assembleRun a (es ++ fs) = assembleRun (assembleRun a es) fs := List.foldl_append

/-- ACCUMULATING with the bits of `acc` counted and an empty window. -/
def collecting (acc : Raw) (n : Nat) : Assembler :=
  { mode := .accumulating, win := .empty, winCnt := 0, acc := acc, bitCnt := BitVec.ofNat 6 n }

/-- The four events of a data bit shift it in (R207-R209): the first three wait in the window, the fourth fills it. -/
theorem assembleRun_bitEvents {acc : Raw} {n : Nat} (b : Bool) (h : n < 32) :
    assembleRun (collecting acc n) (bitEvents b) = collecting (shlIn acc b) (n + 1) := by
  have h32 : BitVec.ofNat 6 n ≠ 32 := by bv_omega
  have hshift (win : Window) (cnt : BitVec 2) :
      (shiftMatchedBit b ⟨.accumulating, win, cnt, acc, BitVec.ofNat 6 n⟩).2 = collecting (shlIn acc b) (n + 1) := by
    rw [shiftMatchedBit, if_neg h32, collecting, BitVec.ofNat_add]
    rfl
  cases b with
  | false => exact hshift ⟨2, 3, 2, 0⟩ 3
  | true => exact hshift ⟨2, 4, 2, 0⟩ 3

/-- The quartets of a list of bits shift them in, the first one to the highest place. -/
theorem assembleRun_bits {acc : Raw} {n : Nat} (bs : List Bool) (h : n + bs.length ≤ 32) :
    assembleRun (collecting acc n) (bs.flatMap bitEvents) = collecting (bs.foldl shlIn acc) (n + bs.length) := by
  induction bs generalizing acc n with
  | nil => rfl
  | cons b bs ih =>
    rw [List.length_cons] at h ⊢
    rw [List.flatMap_cons, assembleRun_append, assembleRun_bitEvents b (by omega), ih (by omega), List.foldl_cons,
      Nat.add_right_comm, Nat.add_assoc]

/-- Shifting in the first `k` bits of a packet gives its top `k` bits. -/
theorem foldl_shlIn_range (v : Raw) {k : Nat} (h : k ≤ 32) :
    ((List.range k).map (fun i => v.getMsbD i)).foldl shlIn 0 = v >>> (32 - k) := by
  induction k with
  | zero => exact (BitVec.ushiftRight_eq_zero (le_refl 32)).symm
  | succ k ih =>
    rw [List.range_succ, List.map_append, List.foldl_append, ih (by omega)]
    have hk : k < 32 := h
    refine BitVec.eq_of_getLsbD_eq fun i hi => ?_
    rcases i with _ | i
    · simp [shlIn, hk, BitVec.getMsbD]
    · have hplace : 32 - k + i = 31 - k + (i + 1) := by omega
      simp [shlIn, hi, hplace]

theorem foldl_shlIn_bitsMsbFirst (v : Raw) : (bitsMsbFirst v).foldl shlIn 0 = v :=
  (foldl_shlIn_range v (le_refl 32)).trans (BitVec.ushiftRight_zero v)

/-- The events of a frame up to its PAUSE, with one pending event, collect the payload from any state. -/
theorem assembleRun_frame (a : Assembler) (v : Raw) :
    assembleRun a (.sync :: ((bitsMsbFirst v).flatMap bitEvents ++ [.highShort])) =
      { mode := .accumulating, win := ⟨2, 0, 0, 0⟩, winCnt := 1, acc := v, bitCnt := 32 } := by
  have hbits : assembleRun (collecting 0 0) ((bitsMsbFirst v).flatMap bitEvents) = collecting v 32 := by
    rw [assembleRun_bits _ (by rw [bitsMsbFirst_length]), foldl_shlIn_bitsMsbFirst, bitsMsbFirst_length]
  rw [assembleRun_cons, assembleRun_append]
  exact congrArg (fun a => assembleRun a [.highShort]) hbits

/-! ### Ticks by their event (R212, R241, R243) -/

/-- The event of the tick with sample `b`. -/
abbrev tickEvent (b : Bool) (s : State) : Event := (classify s.params s.classifier b).1

/-- Only PAUSE yields a raw packet (R212). -/
theorem advance_raw_of_ne_pause (a : Assembler) {ev : Event} (h : ev ≠ .pause) : (advance a ev).1.raw = none := by
  obtain ⟨heq, -⟩ | ⟨-, heq⟩ | ⟨hev, -⟩ | ⟨-, -, heq⟩ | ⟨-, -, heq⟩ := advance_cases a ev
  case inr.inr.inl => exact absurd hev h
  case inr.inr.inr.inr =>
    obtain ⟨-, heq'⟩ | ⟨-, b, -, -, heq'⟩ | ⟨-, -, -, heq'⟩ | ⟨-, -, heq'⟩ := appendEvent_cases ev.code a <;>
      rw [heq, heq'] <;> rfl
  all_goals
    rw [heq]
    rfl

/-- A tick whose event is not PAUSE announces nothing and counts the cool-down down (R241, R243). -/
theorem tickState_of_ne_pause {b : Bool} {s : State} (h : tickEvent b s ≠ .pause) :
    (tickState b s).dupFilter = countdown s.dupFilter ∧ (tickState b s).outputs.pktValid = false ∧
      (tickState b s).outputs.pktRaw = s.outputs.pktRaw := by
  have hfilter : filterRaw s.params (advance s.assembler (tickEvent b s)).1.raw (countdown s.dupFilter) =
      ⟨none, false, countdown s.dupFilter⟩ := by
    rw [advance_raw_of_ne_pause s.assembler h]
    rfl
  exact ⟨congrArg FilterResult.dupFilter hfilter, congrArg (fun r => r.accepted.isSome) hfilter,
    congrArg (fun r => r.accepted.getD s.outputs.pktRaw) hfilter⟩

/-- A PAUSE at 32 bits completes the frame, and the filter takes its packet (R212, R248). -/
theorem tickState_of_pause {b : Bool} {s : State} (h : tickEvent b s = .pause)
    (hm : s.assembler.mode = .accumulating) (h32 : s.assembler.bitCnt = 32) :
    (tickState b s).assembler = .idle ∧
      (tickState b s).outputs =
        s.outputs.afterTick 6 0 (filterRaw s.params (some s.assembler.acc) (countdown s.dupFilter)).dup
          (filterRaw s.params (some s.assembler.acc) (countdown s.dupFilter)).accepted := by
  have hadv : advance s.assembler (tickEvent b s) = completeFrame s.assembler := by
    rw [h]
    simp only [advance, onPause, whenAccumulating_accumulating hm, if_pos h32]
  refine ⟨congrArg Prod.snd hadv, ?_⟩
  change s.outputs.afterTick (tickEvent b s).code (advance s.assembler (tickEvent b s)).1.cause
    (filterRaw s.params (advance s.assembler (tickEvent b s)).1.raw (countdown s.dupFilter)).dup
    (filterRaw s.params (advance s.assembler (tickEvent b s)).1.raw (countdown s.dupFilter)).accepted = _
  rw [hadv, h]
  rfl

/-! ### Runs without PAUSE -/

theorem ticks_assembler (bs : List Bool) (s : State) :
    (ticks bs s).assembler = assembleRun s.assembler (classifyRun s.params s.classifier bs).1 := by
  induction bs generalizing s with
  | nil => rfl
  | cons b bs ih =>
    rw [ticks_cons, ih, classifyRun_cons]
    by_cases hev : (classify s.params s.classifier b).1 = .none
    · rw [if_pos hev, tickState_assembler, hev]
      rfl
    · rw [if_neg hev]
      rfl

/-- An event absent from a run is that of neither its first tick nor a later one. -/
theorem notMem_classifyRun_cons {p : Params} {c : Classifier} {b : Bool} {bs : List Bool} {ev : Event}
    (hne : ev ≠ .none) (h : ev ∉ (classifyRun p c (b :: bs)).1) :
    (classify p c b).1 ≠ ev ∧ ev ∉ (classifyRun p (classify p c b).2 bs).1 := by
  rw [classifyRun_cons] at h
  split at h
  · next hnone => exact ⟨fun heq => hne (heq.symm.trans hnone), h⟩
  · exact ⟨(List.ne_of_not_mem_cons h).symm, List.not_mem_of_not_mem_cons h⟩

/-- A run without PAUSE announces nothing and counts the cool-down down. -/
theorem ticks_of_no_pause {s : State} (hs : s.Legal) {bs : List Bool} (ws : List InWord)
    (h : .pause ∉ (classifyRun s.params s.classifier bs).1) :
    (ticks bs s).dupFilter = countdown^[bs.length] s.dupFilter ∧ (ticks bs s).outputs.pktRaw = s.outputs.pktRaw ∧
      announcements bs.length (s.feedWords (bs.map tickWord ++ ws)) = [] := by
  induction bs generalizing s with
  | nil => exact ⟨rfl, rfl, rfl⟩
  | cons b bs ih =>
    obtain ⟨hev, hrest⟩ := notMem_classifyRun_cons (by decide) h
    obtain ⟨hdup, hvalid, hraw⟩ := tickState_of_ne_pause hev
    obtain ⟨hdups, hraws, hann⟩ := ih (tickState_legal b hs) hrest
    refine ⟨?_, hraws.trans hraw, ?_⟩
    · rw [ticks_cons, hdups, hdup, List.length_cons, Function.iterate_succ_apply]
    · have hstep := step_tickWord hs b (bs.map tickWord ++ ws)
      exact (announcements_succ _ hstep).trans (congrArg₂ (· ++ ·) ((announced_eq_nil _).mpr hvalid) hann)

/-- A run without PAUSE before its last tick announces what that tick does. -/
theorem announcements_of_last_tick {s : State} (hs : s.Legal) {bs : List Bool} (b : Bool)
    (h : .pause ∉ (classifyRun s.params s.classifier bs).1) :
    announcements (bs.length + 1) (s.feedWords ((bs ++ [b]).map tickWord)) =
      (ticks (bs ++ [b]) s).outputs.announced := by
  obtain ⟨-, -, hann⟩ := ticks_of_no_pause hs [tickWord b] h
  have hstep := step_tickWord (ticks_legal bs hs) b []
  rw [List.map_append, List.map_singleton, announcements_add _ 1 (runClocks_tickWords hs bs _), hann,
    announcements_succ 0 hstep, announcements_zero, List.append_nil, List.nil_append, ticks_append]
  rfl

/-! ### The duplicate record after a run (R241, R244) -/

/-- The record after `n` countdowns: it has expired from its count on (R241). -/
theorem countdown_iterate {p : Params} {f : DupFilter} (h : f.Legal p) (n : Nat) :
    countdown^[n] f =
      if n < f.cdCnt.toNat then { f with cdCnt := BitVec.ofNat 16 (f.cdCnt.toNat - n) } else ⟨0, false, 0⟩ := by
  obtain ⟨-, hvalid, hraw⟩ := h
  induction n with
  | zero =>
    by_cases hcnt : f.cdCnt = 0
    · have hv : f.lastValid = false := by simpa [hcnt] using hvalid
      rw [if_neg (by simp [hcnt]), ← hraw hv, ← hv, ← hcnt]
      rfl
    · rw [if_pos (by bv_omega), Nat.sub_zero, BitVec.ofNat_toNat, BitVec.setWidth_eq]
      rfl
  | succ n ih =>
    rw [Function.iterate_succ_apply', ih]
    by_cases hn : n < f.cdCnt.toNat
    · rw [if_pos hn]
      obtain ⟨hzero, -⟩ | ⟨hone, heq⟩ | ⟨-, hone, heq⟩ :=
        countdown_cases { f with cdCnt := BitVec.ofNat 16 (f.cdCnt.toNat - n) }
      · simp only at hzero
        bv_omega
      · simp only at hone
        rw [heq, if_neg (by bv_omega)]
      · simp only at hone
        have hpred : BitVec.ofNat 16 (f.cdCnt.toNat - n) - 1 = BitVec.ofNat 16 (f.cdCnt.toNat - (n + 1)) := by
          bv_omega
        rw [heq, if_pos (by bv_omega), hpred]
    · rw [if_neg hn, if_neg (by omega)]
      rfl

/-- Stage 3 on a packet `n` countdowns later: it is suppressed if it is the stored one and the record is not
expired (R244, R245). -/
theorem filterRaw_countdown_iterate {p : Params} {f : DupFilter} (h : f.Legal p) (n : Nat) (v : Raw) {dup : Bool}
    (hdup : dup = (f.lastValid && f.lastRaw == v && decide (n < f.cdCnt.toNat))) :
    (filterRaw p (some v) (countdown^[n] f)).dup = dup ∧
      (filterRaw p (some v) (countdown^[n] f)).accepted = if dup then none else some v := by
  rw [countdown_iterate h]
  by_cases hn : n < f.cdCnt.toNat
  · by_cases hstored : f.lastValid = true ∧ v = f.lastRaw
    · simp [filterRaw, hn, hstored, hdup]
    · have hfalse : dup = false := by simpa [hdup, hn, eq_comm (a := v)] using hstored
      simp [filterRaw, hn, hstored, hfalse]
  · simp [filterRaw, hn, hdup]

/-! ### Stage 1 on the samples of a frame (R99, R101, R107) -/

theorem classify_high_ne_pause (p : Params) (c : Classifier) : (classify p c true).1 ≠ .pause := by
  change (endedLowEvent p c.zeroRun).getD (highRunEvent p _ c.lastEv) ≠ _
  obtain ⟨hev, -⟩ | ⟨hev, -⟩ | ⟨hev, -⟩ | ⟨hev, -⟩ := endedLowEvent_cases p c.zeroRun
  case inr.inr.inr =>
    obtain ⟨hone, -⟩ | ⟨hone, -⟩ | ⟨hone, -⟩ :=
      highRunEvent_cases p (satInc c.oneRun (p.hsMax + 1)) c.lastEv <;> simp [hev, hone]
  all_goals simp [hev]

theorem classifyRun_high_no_pause (p : Params) (c : Classifier) (n : Nat) :
    .pause ∉ (classifyRun p c (List.replicate n true)).1 := by
  induction n generalizing c with
  | zero => exact List.not_mem_nil
  | succ n ih =>
    rw [List.replicate_succ, classifyRun_cons]
    split
    · exact ih _
    · exact List.not_mem_cons_of_ne_of_not_mem (classify_high_ne_pause p c).symm (ih _)

theorem classify_low_of_lt {p : Params} (hp : p.Legal) {c : Classifier} (h : c.zeroRun + 1 < p.endThresh) :
    classify p c false = (.none, ⟨c.zeroRun + 1, 0, c.lastEv⟩) := by
  obtain ⟨-, -, -, -, -, hguard, -⟩ := hp
  obtain ⟨-, -, heq⟩ | ⟨hev, hlt, -⟩ | ⟨-, hge⟩ := lowRunEvent_cases p c.zeroRun
  · omega
  · simp [classify, classifyLow, hev, hlt, recordEvent]
  · omega

/-- Below the threshold a low run has no event (R104, R170). -/
theorem classifyRun_low_of_lt {p : Params} (hp : p.Legal) (n : Nat) {c : Classifier}
    (h : c.zeroRun + (n + 1) < p.endThresh) :
    classifyRun p c (List.replicate (n + 1) false) = ([], ⟨c.zeroRun + (n + 1), 0, c.lastEv⟩) := by
  induction n with
  | zero =>
    rw [List.replicate_one, classifyRun_cons, classify_low_of_lt hp h]
    rfl
  | succ n ih =>
    have hlast := classify_low_of_lt hp (c := ⟨c.zeroRun + (n + 1), 0, c.lastEv⟩) h
    rw [List.replicate_succ', classifyRun_append (ih (by omega)) rfl, classifyRun_cons, hlast]
    rfl

/-- A low run in a window has an event, and not HIGH_SHORT (R163-R165). -/
theorem endedLowEvent_eq_some {p : Params} {z : Nat} {e : Event} (h : endedLowEvent p z = some e) :
    e ≠ .none ∧ e.code ≠ 2 := by
  obtain ⟨hev, -⟩ | ⟨hev, -⟩ | ⟨hev, -⟩ | ⟨hev, -⟩ := endedLowEvent_cases p z <;>
    rw [hev] at h <;> cases h <;> decide

/-- A short-high pulse after a low run in a window: the event of the low run on its first tick, HIGH_SHORT on its
third (R104, R107). -/
theorem classifyRun_shortHigh {z : Nat} {last : EvCode} {e : Event} (hz : endedLowEvent .default z = some e) :
    classifyRun .default ⟨z, 0, last⟩ (List.replicate 4 true) = ([e, .highShort], ⟨0, 4, 2⟩) := by
  obtain ⟨hnone, hcode⟩ := endedLowEvent_eq_some hz
  have hfirst : classify .default ⟨z, 0, last⟩ true = (e, ⟨0, 1, e.code⟩) := by
    rw [classify_first_high Params.default_legal rfl, firstHighLastEv, hz, Option.getD_some, recordEvent,
      if_neg hnone]
  have hsecond : classify .default ⟨0, 1, e.code⟩ true = (.none, ⟨0, 2, e.code⟩) := rfl
  have hthird : classify .default ⟨0, 2, e.code⟩ true = (.highShort, ⟨0, 3, 2⟩) := by
    have hev : highRunEventAt .default e.code 2 = .highShort := by
      rw [highRunEventAt, if_neg (by decide), if_pos ⟨rfl, hcode⟩]
    exact (classify_high_at Params.default_legal e.code 2).trans (Prod.ext hev rfl)
  have hfourth : classify .default ⟨0, 3, 2⟩ true = (.none, ⟨0, 4, 2⟩) := rfl
  simp only [List.replicate, classifyRun_cons, hfirst, hsecond, hthird, hfourth, classifyRun_nil, if_neg hnone]
  rfl

theorem classifyRun_pulse {z : Nat} {last : EvCode} {e : Event} (n : Nat) (hz : endedLowEvent .default z = some e)
    (hn : n + 1 < 60) :
    classifyRun .default ⟨z, 0, last⟩ (pulseSamples 4 (n + 1)) = ([e, .highShort], ⟨n + 1, 0, 2⟩) := by
  have hlow := classifyRun_low_of_lt Params.default_legal n (c := ⟨0, 4, 2⟩) ((Nat.zero_add _).trans_lt hn)
  rw [Nat.zero_add] at hlow
  exact classifyRun_append (classifyRun_shortHigh hz) hlow

/-- The data bits of a frame and the pulse after them: the event of a low pulse comes with the next high one, so that of
the low run before the bits, `e`, comes first. -/
theorem classifyRun_bits (bs : List Bool) {z : Nat} {last : EvCode} {e : Event} (n : Nat)
    (hz : endedLowEvent .default z = some e) (hn : n + 1 < 60) :
    classifyRun .default ⟨z, 0, last⟩ (bs.flatMap bitSamples ++ pulseSamples 4 (n + 1)) =
      (e :: (bs.flatMap bitEvents ++ [.highShort]), ⟨n + 1, 0, 2⟩) := by
  induction bs generalizing z last e with
  | nil => exact classifyRun_pulse n hz hn
  | cons b bs ih =>
    rw [List.flatMap_cons, List.append_assoc]
    cases b with
    | false =>
      have hbit := classifyRun_append (classifyRun_pulse (last := last) 5 hz (by decide))
        (classifyRun_pulse 23 (e := .lowShort) rfl (by decide))
      exact classifyRun_append hbit (ih (e := .lowLong) rfl)
    | true =>
      have hbit := classifyRun_append (classifyRun_pulse (last := last) 23 hz (by decide))
        (classifyRun_pulse 5 (e := .lowLong) rfl (by decide))
      exact classifyRun_append hbit (ih (e := .lowShort) rfl)

/-- START leaves a low run in SYNC's window and gives no PAUSE, from any classifier state. -/
theorem classifyRun_start (c : Classifier) :
    ∃ es last, .pause ∉ es ∧ classifyRun .default c (pulseSamples 4 50) = (es, ⟨50, 0, last⟩) := by
  have hlow := classifyRun_low_of_lt Params.default_legal 49
    (c := (classifyRun .default c (List.replicate 4 true)).2) (by decide : 0 + 50 < 60)
  refine ⟨_, _, ?_, classifyRun_append (Prod.eta _).symm hlow⟩
  rw [List.append_nil]
  exact classifyRun_high_no_pause _ c 4

/-! ### The frame -/

/-- The samples of `FRAME v` but the last. -/
def frameHead (v : Raw) : List Bool :=
  pulseSamples 4 50 ++ ((bitsMsbFirst v).flatMap bitSamples ++ pulseSamples 4 59)

theorem frameSamples_eq (v : Raw) : frameSamples v = frameHead v ++ [false] := by
  have hlast : pulseSamples 4 60 = pulseSamples 4 59 ++ [false] := rfl
  rw [frameSamples, frameHead, hlast, List.append_assoc, List.append_assoc, List.append_assoc]

theorem frameHead_length (v : Raw) : (frameHead v).length = 1333 := by
  have hlen := frameSamples_length v
  rw [frameSamples_eq, List.length_append, List.length_singleton] at hlen
  exact Nat.succ.inj hlen

theorem pause_notMem_bitEvents (b : Bool) : .pause ∉ bitEvents b := by cases b <;> decide

/-- Before its last tick a frame has no PAUSE, and its last events are those of R101 with one HIGH_SHORT pending. -/
theorem classifyRun_frameHead (c : Classifier) (v : Raw) :
    ∃ es, .pause ∉ es ∧ .pause ∉ (Event.sync :: ((bitsMsbFirst v).flatMap bitEvents ++ [.highShort])) ∧
      classifyRun .default c (frameHead v) =
        (es ++ (.sync :: ((bitsMsbFirst v).flatMap bitEvents ++ [.highShort])), ⟨59, 0, 2⟩) := by
  obtain ⟨es, last, hes, hstart⟩ := classifyRun_start c
  refine ⟨es, hes, ?_, classifyRun_append hstart (classifyRun_bits _ 58 rfl (by decide))⟩
  simp [pause_notMem_bitEvents]

/-- The state before the last tick of a frame: the payload is collected and the next low sample is the PAUSE. -/
theorem ticks_frameHead {s : State} (hp : s.params = .default) (v : Raw) :
    .pause ∉ (classifyRun s.params s.classifier (frameHead v)).1 ∧
      (ticks (frameHead v) s).classifier = ⟨59, 0, 2⟩ ∧
      (ticks (frameHead v) s).assembler =
        { mode := .accumulating, win := ⟨2, 0, 0, 0⟩, winCnt := 1, acc := v, bitCnt := 32 } := by
  obtain ⟨es, hes, hframe, hrun⟩ := classifyRun_frameHead s.classifier v
  rw [ticks_classifier, ticks_assembler, hp, hrun]
  refine ⟨fun hmem => (List.mem_append.mp hmem).elim hes hframe, rfl, ?_⟩
  rw [assembleRun_append, assembleRun_frame]

/-- The outputs of the tick that ends a frame, accepted or reported as a duplicate (R139, R140). -/
theorem afterTick_of_pause (o : OutputRegs) (v : Raw) (dup : Bool) :
    o.afterTick 6 0 dup (if dup then none else some v) =
      { evCode := 6, evValid := true, pktValid := !dup, pktRaw := if dup then o.pktRaw else v, dup := dup,
        inv := 0 } := by
  cases dup <;> rfl

/-- The state after a frame, from any legal state at the default parameters. -/
theorem ticks_frameSamples {s : State} (hs : s.Legal) (hp : s.params = .default) (v : Raw) {dup : Bool}
    (hdup : dup = (s.dupFilter.lastValid && s.dupFilter.lastRaw == v && decide (1334 < s.dupFilter.cdCnt.toNat))) :
    (ticks (frameSamples v) s).outputs =
        { evCode := 6, evValid := true, pktValid := !dup, pktRaw := if dup then s.outputs.pktRaw else v, dup := dup,
          inv := 0 } ∧
      (ticks (frameSamples v) s).assembler = .idle := by
  obtain ⟨hpause, hcls, hasm⟩ := ticks_frameHead hp v
  obtain ⟨hrec, hraw, -⟩ := ticks_of_no_pause hs [] hpause
  have hparams := ticks_params (frameHead v) s
  rw [frameSamples_eq, ticks_append]
  generalize ticks (frameHead v) s = u at *
  have hev : tickEvent false u = .pause := by
    rw [tickEvent, hcls, hparams, hp]
    rfl
  have hcount : countdown u.dupFilter = countdown^[1334] s.dupFilter := by
    rw [hrec, frameHead_length]
    exact (Function.iterate_succ_apply' countdown 1333 s.dupFilter).symm
  obtain ⟨-, -, -, hlegal⟩ := hs
  obtain ⟨hreported, haccepted⟩ := filterRaw_countdown_iterate hlegal 1334 v hdup
  obtain ⟨hidle, hout⟩ := tickState_of_pause hev (by rw [hasm]) (by rw [hasm])
  rw [hasm, hcount, hparams, hreported, haccepted, afterTick_of_pause, hraw] at hout
  exact ⟨hout, hidle⟩

/-! ### The statements -/

/-- Settles O1: a check of the eight words. -/
theorem inputWordSelectsOperation : Obligations.InputWordSelectsOperation := by
  unfold Obligations.InputWordSelectsOperation
  decide

/-- Settles O2: a check of the eight codes. -/
theorem eventCodesInListingOrder : Obligations.EventCodesInListingOrder := by
  unfold Obligations.EventCodesInListingOrder
  decide

/-- Settles O3: the slots by `Window.word_slots`, the two canonical quartets by computation. -/
theorem canonicalQuartetWords : Obligations.CanonicalQuartetWords :=
  ⟨Window.word_slots, by decide⟩

/-- Settles O4: no row but the two canonical ones fits, and the window of a word has that word back. -/
theorem otherQuartetsAreMalformed : Obligations.OtherQuartetsAreMalformed := by
  intro q h0 h1
  have hbit0 : windowOfWord q ≠ .bit0 := fun h => h0 ((word_windowOfWord q).symm.trans (congrArg Window.word h))
  have hbit1 : windowOfWord q ≠ .bit1 := fun h => h1 ((word_windowOfWord q).symm.trans (congrArg Window.word h))
  exact ⟨by rw [decode_quartet, if_neg h0, if_neg h1], by rw [Window.dataBit, if_neg hbit0, if_neg hbit1]⟩

/-- Settles O40: the word decodes to no row, so the step is `onMalformedQuartet`, by the mode. -/
theorem malformedQuartetWordInvalidatesOrIsIgnored : Obligations.MalformedQuartetWordInvalidatesOrIsIgnored := by
  intro s q rest hs h0 h1
  have hd : decode (.quartet q) = .error .malformedQuartet := (otherQuartetsAreMalformed q h0 h1).1
  have hstep : step { s with input := .quartet q :: rest } =
      .next (assemblerState onMalformedQuartet (s.feed rest)) := by
    rw [step_of_input rfl, hd]
    exact ifReachable_next (s := s.feed rest) hs
  rw [hstep, assemblerState, feed_assembler, onMalformedQuartet]
  rcases hm : s.assembler.mode with _ | _
  · rw [whenAccumulating_searching hm]
    rfl
  · rw [whenAccumulating_accumulating hm]
    rfl

/-- Settles O7: each directive's words decode to its operations, and both sides are the directives' parts in order. -/
theorem directiveWordsDecode : Obligations.DirectiveWordsDecode := by
  intro ds
  simp only [directiveWords, List.map_flatMap, Directive.decode_words]

/-- Settles O8: the fixed expansions hold by computation, that of FRAME by `frameDirectives_eq`; every expansion is the
ticks of some samples, those of FRAME 1334. -/
theorem pseudoDirectiveExpansions : Obligations.PseudoDirectiveExpansions := by
  unfold Obligations.PseudoDirectiveExpansions
  intro words
  refine ⟨⟨rfl, rfl, rfl, rfl, rfl, fun n => ?_⟩, rfl, rfl, rfl, rfl, frameDirectives_eq, fun d w hw => ?_,
    rfl, rfl, rfl, rfl, fun v => ?_⟩
  · exact List.append_nil _
  · obtain ⟨bs, hbs⟩ := d.words_eq_samples
    rw [show words d = bs.map tickWord from hbs] at hw
    obtain ⟨b, -, rfl⟩ := List.mem_map.mp hw
    exact tickWord_cases b
  · rw [show words (.frame v) = _ from frameDirectives_words v, List.length_map, frameSamples_length]

/-- Settles O24: after `n - 1` low ticks the zero run stands at `n - 1` or at the ceiling, and the last tick's event is
that of stage 1 there. -/
theorem lowRunEvents : Obligations.LowRunEvents := by
  intro s n hs hzero hn
  obtain ⟨m, rfl⟩ := Nat.exists_eq_add_of_le' hn
  have hrun := runClocks_samples hs (List.replicate (m + 1) false)
  rw [List.length_replicate, List.map_replicate] at hrun
  have hcount (k : Nat) := classifyRun_low_zeroRun (p := s.params) (c := s.classifier) (by omega) k
  simp only [hzero, Nat.zero_add] at hcount
  refine ⟨_, hrun, ?_, ?_⟩
  · exact (congrArg _ (ticks_classifier _ s)).trans (hcount (m + 1))
  · rw [← lowRunEvent_code hs.1 m, ← hcount m, List.replicate_succ']
    exact ticks_concat_evCode _ false s

/-- Settles O25: `classifyRun_high` gives the classifier after `n` and after `n - 1` ticks, and the last tick's event is
that of stage 1 there. -/
theorem highRunEvents : Obligations.HighRunEvents := by
  intro s n hs hone hn
  obtain ⟨m, rfl⟩ := Nat.exists_eq_add_of_le' hn
  have hrun := runClocks_samples hs (List.replicate (m + 2) true)
  rw [List.length_replicate, List.map_replicate] at hrun
  have hcls : (ticks (List.replicate (m + 2) true) s).classifier = _ :=
    (ticks_classifier _ s).trans (classifyRun_high hs.1 hone (m + 1))
  have hev := ticks_concat_evCode (List.replicate (m + 1) true) true s
  rw [← List.replicate_succ', classifyRun_high hs.1 hone m, classify_high_at hs.1] at hev
  refine ⟨_, hrun, congrArg Classifier.oneRun hcls, congrArg Classifier.zeroRun hcls, hev.trans ?_⟩
  simp only [highRunEventAt, firstHighLastEv_ne_two_iff, apply_ite Event.code]
  rfl

/-- Settles O59: before its last tick a frame has announced nothing and its payload is collected; the last tick is the
PAUSE, and stage 3 compares after 1334 countdowns (`ticks_frameSamples`). -/
theorem frameWordsAnnouncePayload : Obligations.FrameWordsAnnouncePayload := by
  intro s v hs hp frame repeated
  obtain ⟨hpause, -⟩ := ticks_frameHead hp v
  have hwords : frame = s.feedWords ((frameSamples v).map tickWord) :=
    congrArg s.feedWords (frameDirectives_words v)
  have hrun := runClocks_samples hs (frameSamples v)
  have hann := announcements_of_last_tick hs false hpause
  obtain ⟨hout, hidle⟩ := ticks_frameSamples hs hp v (dup := repeated) rfl
  rw [frameHead_length, ← frameSamples_eq, hout, ← hwords] at hann
  rw [frameSamples_length, ← hwords] at hrun
  exact ⟨hann.trans (by cases repeated <;> rfl), _, hrun, hout, hidle⟩

end Sys2Proof.Machine
end

section
/-!
PROOFS. The statements of spec/40_top_level.md: the dispatch of a step (R131, R132), NOP (R134, R143), the tick with its
stages (R133, R135, R141), that no input word stops the core (R144) and the whole-step function (R145). `wordState` is what
an input word does to a legal state, and `wordsState` a run of them; `step_feedWords_cons` and `runClocks_feedWords` tie
them to the step and its runs.
-/

namespace Sys2Proof.Machine

/-! ### The step on an input word (R131, R132) -/

/-- The four rows of format IN, reset first (R91, R132). -/
theorem decode_port (w : InWord) :
    decode (.port w) = .ok (if w.getLsbD 2 then .reset else if w.getLsbD 1 = false then .nop
      else if w.getLsbD 0 then .tick1 else .tick0) := by
  revert w
  decide

/-- What the clock of an input word does to a legal state (R132). -/
def wordState (w : InWord) (s : State) : State :=
  if w.getLsbD 2 then resetState s else if w.getLsbD 1 = false then idleState s else tickState (w.getLsbD 0) s

theorem isNopWord_iff (w : InWord) : isNopWord w = true ↔ w.getLsbD 2 = false ∧ w.getLsbD 1 = false := by
  simp only [isNopWord, Bool.and_eq_true, Bool.not_eq_true']

/-- A NOP word idles, whatever its sample (R132, R134). -/
theorem wordState_of_nop {w : InWord} (h : isNopWord w = true) (s : State) : wordState w s = idleState s := by
  obtain ⟨hreset, htick⟩ := (isNopWord_iff w).mp h
  rw [wordState, hreset, htick]
  rfl

theorem wordState_legal {s : State} (w : InWord) (h : s.Legal) : (wordState w s).Legal := by
  unfold wordState
  split_ifs
  · exact ⟨h.1, reset_registers_legal _⟩
  · exact h
  · exact tickState_legal _ h

theorem wordState_params (w : InWord) (s : State) : (wordState w s).params = s.params := by
  unfold wordState
  split_ifs <;> rfl

/-- The step's dispatch, with the four operations as they stand in `exec` (R132). -/
theorem step_port (s : State) (w : InWord) (rest : List Stimulus) :
    step (s.feed (.port w :: rest)) =
      if w.getLsbD 2 then exec .reset (s.feed rest)
      else if w.getLsbD 1 = false then exec .nop (s.feed rest)
      else if w.getLsbD 0 then exec .tick1 (s.feed rest)
      else exec .tick0 (s.feed rest) := by
  rw [step_of_input rfl, decode_port]
  split_ifs <;> rfl

/-- At a legal state the clock of an input word goes on (R144). -/
theorem step_port_of_legal {s : State} (h : s.Legal) (w : InWord) (rest : List Stimulus) :
    step (s.feed (.port w :: rest)) = .next ((wordState w s).feed rest) := by
  rw [step_port, wordState]
  have hrest : (s.feed rest).Legal := h
  split
  · exact ifConfigured_next h.1
  · split
    · exact ifConfigured_next h.1
    · rcases w.getLsbD 0 with _ | _ <;> exact ifReachable_next hrest

theorem step_feedWords_cons {s : State} (h : s.Legal) (w : InWord) (ws : List InWord) :
    step (s.feedWords (w :: ws)) = .next ((wordState w s).feedWords ws) :=
  step_port_of_legal h w (ws.map Stimulus.port)

/-! ### Runs of input words -/

/-- What the clocks of some input words do to a legal state. -/
def wordsState (ws : List InWord) (s : State) : State := ws.foldl (fun t w => wordState w t) s

theorem wordsState_append (vs ws : List InWord) (s : State) :
    wordsState (vs ++ ws) s = wordsState ws (wordsState vs s) := List.foldl_append

theorem runClocks_feedWords {s : State} (h : s.Legal) (ws : List InWord) :
    runClocks ws.length (s.feedWords ws) = .next ((wordsState ws s).feedWords []) := by
  induction ws generalizing s with
  | nil => rfl
  | cons w ws ih => exact (runClocks_succ _ (step_feedWords_cons h w ws)).trans (ih (wordState_legal w h))

/-! ### The whole-step function, stage by stage (R145) -/

theorem wholeStage0_eq (f : DupFilter) : wholeStage0 f = countdown f := by
  obtain ⟨h0, heq⟩ | ⟨h1, heq⟩ | ⟨h0, h1, heq⟩ := countdown_cases f <;> rw [heq, wholeStage0]
  · exact if_pos h0
  · simp [h1]
  · have hpred : f.cdCnt - 1 ≠ 0 := by bv_omega
    simp only [if_neg h0, if_neg hpred]

/-- The one-run analysis in the numerals of R145 (R166-R168). -/
theorem highRunEvent_code (p : Params) (o : Nat) (last : EvCode) :
    (highRunEvent p o last).code =
      if p.hsMax < o then 1 else if (p.hsMin ≤ o ∧ o ≤ p.hsMax) ∧ last ≠ 2 then 2 else 0 := by
  obtain ⟨hev, hlt⟩ | ⟨hev, hmin, hmax, hlast⟩ | ⟨hev, hmax, hnot⟩ := highRunEvent_cases p o last <;> rw [hev]
  · rw [if_pos hlt]
    rfl
  · rw [if_neg hmax.not_gt, if_pos ⟨⟨hmin, hmax⟩, hlast⟩]
    rfl
  · have hno : ¬ ((p.hsMin ≤ o ∧ o ≤ p.hsMax) ∧ last ≠ 2) := by
      rintro ⟨⟨hmin, -⟩, hlast⟩
      exact hnot.elim hmin.not_gt hlast
    rw [if_neg hmax.not_gt, if_neg hno]
    rfl

theorem wholeEvent_high (p : Params) (c : Classifier) :
    wholeEvent p true c = (classify p c true).1.code := by
  change _ = ((endedLowEvent p c.zeroRun).getD (highRunEvent p (satInc c.oneRun (p.hsMax + 1)) c.lastEv)).code
  simp only [wholeEvent, endedLowEvent, inWindow, Bool.and_eq_true, decide_eq_true_eq, if_true, ← highRunEvent_code]
  split_ifs <;> rfl

theorem wholeEvent_low (p : Params) (c : Classifier) :
    wholeEvent p false c = (classify p c false).1.code := by
  change _ = (lowRunEvent p c.zeroRun).code
  simp only [wholeEvent, lowRunEvent, Bool.false_eq_true, if_false]
  split_ifs <;> rfl

theorem wholeEvent_eq (p : Params) (b : Bool) (c : Classifier) : wholeEvent p b c = (classify p c b).1.code := by
  cases b with
  | false => exact wholeEvent_low p c
  | true => exact wholeEvent_high p c

theorem wholeStage1_eq (p : Params) (b : Bool) (c : Classifier) :
    wholeStage1 p b c (classify p c b).1.code = (classify p c b).2 := by
  have hlast : (if (classify p c b).1.code ≠ 0 then (classify p c b).1.code else c.lastEv) =
      (classify p c b).2.lastEv := by
    simp only [classify_lastEv, recordEvent, ne_eq, code_eq_zero_iff, ite_not]
  cases b <;> exact congrArg (Classifier.mk _ _) hlast

/-- The results of stage 2 in the form R145 hands them on. -/
def stage2Values (q : Stage2Out × Assembler) : WholeStage2 where
  m := q.2.mode
  w := q.2.win
  wc := q.2.winCnt
  a := q.2.acc
  bc := q.2.bitCnt
  raw := q.1.raw
  cause := q.1.cause

/-- The window with the cursor's slot set (R207), slot by slot as R145 writes it. -/
theorem window_set_eq (w : Window) (n : BitVec 2) (c : EvCode) :
    w.set n.toFin c =
      ⟨if n = 0 then c else w.w0, if n = 1 then c else w.w1, if n = 2 then c else w.w2, if n = 3 then c else w.w3⟩ := by
  obtain ⟨i⟩ := n
  fin_cases i <;> rfl

theorem dataBit_eq_some {w : Window} {b : Bool} (h : w.dataBit = some b) : w = if b then .bit1 else .bit0 := by
  unfold Window.dataBit at h
  split_ifs at h with h0 h1 <;> cases h
  · exact h0
  · exact h1

theorem dataBit_eq_none {w : Window} (h : w.dataBit = none) : ¬ (w = .bit0 ∨ w = .bit1) := by
  rintro (rfl | rfl) <;> cases h

/-- A data event in ACCUMULATING: it waits, or it fills the window with a bit, an overflow or a malformed quartet
(R207-R211). -/
theorem wholeStage2_data {a : Assembler} {c : EvCode} (hm : a.mode = .accumulating) (hc : isDataCode c = true) :
    wholeStage2 a c = stage2Values (appendEvent c a) := by
  have hcode : c ≠ 0 ∧ c ≠ 1 ∧ c ≠ 5 ∧ c ≠ 6 := by revert c; decide
  obtain ⟨h0, h1, h5, h6⟩ := hcode
  have hmode : a.mode ≠ .searching := by simp [hm]
  have hbit0 : (⟨2, 3, 2, 4⟩ : Window) = .bit0 := rfl
  have hbit1 : (⟨2, 4, 2, 3⟩ : Window) = .bit1 := rfl
  simp only [wholeStage2, if_neg hmode, if_neg h0, if_neg h1, if_neg h5, if_neg h6, ← window_set_eq, hbit0, hbit1]
  obtain ⟨hcnt, heq⟩ | ⟨hcnt, b, hbit, h32, heq⟩ | ⟨hcnt, ⟨b, hbit⟩, h32, heq⟩ | ⟨hcnt, hbit, heq⟩ :=
    appendEvent_cases c a
  · have h3 : a.winCnt ≠ 3 := by bv_omega
    have hsucc : BitVec.ofNat 2 (a.winCnt.toNat + 1) = a.winCnt + 1 := by bv_omega
    rw [heq, hsucc, if_neg h3]
    rfl
  · have h3 : a.winCnt = 3 := by bv_omega
    rw [heq, if_pos h3, dataBit_eq_some hbit]
    simp only [if_neg h32]
    cases b <;> rfl
  · have h3 : a.winCnt = 3 := by bv_omega
    rw [heq, if_pos h3, dataBit_eq_some hbit]
    simp only [if_pos h32]
    cases b <;> rfl
  · have h3 : a.winCnt = 3 := by bv_omega
    rw [heq, if_pos h3, if_neg (dataBit_eq_none hbit)]
    rfl

theorem code_eq_five_iff (ev : Event) : ev.code = 5 ↔ ev = .sync := by cases ev <;> decide

/-- In SEARCHING every event but SYNC is ignored (R202). -/
theorem advance_searching {a : Assembler} {ev : Event} (hm : a.mode = .searching) (hev : ev ≠ .sync) :
    advance a ev = (.quiet, a) := by
  obtain ⟨heq, -⟩ | ⟨hsync, -⟩ | ⟨-, hacc, -⟩ | ⟨-, hacc, -⟩ | ⟨hacc, -⟩ := advance_cases a ev
  · exact heq
  · exact absurd hsync hev
  all_goals simp [hm] at hacc

/-- Stage 2 of R145 is `advance`, in SEARCHING and, by the event, in ACCUMULATING. -/
theorem wholeStage2_eq (a : Assembler) (ev : Event) : wholeStage2 a ev.code = stage2Values (advance a ev) := by
  rcases hm : a.mode with _ | _
  · by_cases hev : ev = .sync
    · subst hev
      exact (if_pos hm).trans (if_pos rfl)
    · rw [advance_searching hm hev]
      exact (if_pos hm).trans (if_neg (mt (code_eq_five_iff ev).mp hev))
  · have hmode : a.mode ≠ .searching := by simp [hm]
    cases ev with
    | none => exact if_neg hmode
    | invalid =>
      rw [advance, onInvalid, whenAccumulating_accumulating hm]
      exact if_neg hmode
    | highShort | lowShort | lowLong =>
      rw [advance, onData, whenAccumulating_accumulating hm]
      exact wholeStage2_data hm rfl
    | sync => exact if_neg hmode
    | pause =>
      rw [advance, onPause, whenAccumulating_accumulating hm]
      by_cases h32 : a.bitCnt = 32
      · rw [if_pos h32]
        exact (if_neg hmode).trans (if_pos h32)
      · rw [if_neg h32]
        exact (if_neg hmode).trans (if_neg h32)

/-- The tick of R145 is `tick`: stage 3 passes, suppresses or accepts alike. -/
theorem wholeTick_eq (p : Params) (b : Bool) (r : Regs) : wholeTick p b r = (tick p b r).2 := by
  simp only [wholeTick, tick, wholeStage0_eq, wholeEvent_eq, wholeStage1_eq, wholeStage2_eq]
  obtain ⟨hraw, heq⟩ | ⟨hraw, hvalid, heq⟩ | ⟨v, hraw, hnew, heq⟩ :=
    filterRaw_cases p (advance r.assembler (classify p r.classifier b).1).1.raw (countdown r.dupFilter) <;>
    rw [hraw] at heq
  · simp only [stage2Values, hraw, heq]
    rfl
  · simp only [stage2Values, hraw, heq, hvalid, and_self, if_true]
    rfl
  · have hno : ¬ ((countdown r.dupFilter).lastValid = true ∧ v = (countdown r.dupFilter).lastRaw) := by
      rintro ⟨hvalid, hsame⟩
      exact hnew.elim (by simp [hvalid]) (absurd hsame)
    simp only [stage2Values, hraw, heq, if_neg hno]
    rfl

theorem wordState_toRegs (w : InWord) (s : State) : (wordState w s).toRegs = wholeStep s.params w s.toRegs := by
  unfold wordState wholeStep
  split
  · rfl
  · split
    · rfl
    · exact (wholeTick_eq s.params _ s.toRegs).symm

/-! ### The event of a tick (R133, R135, R136) -/

/-- The operation that presents an event alone (R94). -/
def eventInstr : Event → Instr
  | .none => .evNone
  | .invalid => .evInvalid
  | .highShort => .evHighShort
  | .lowShort => .evLowShort
  | .lowLong => .evLowLong
  | .sync => .evSync
  | .pause => .evPause

theorem decode_event (ev : Event) : decode (.event ev.code) = .ok (eventInstr ev) := by
  cases ev <;> rfl

/-- An event presented alone runs the operation of stage 2 that a tick runs for it (R133, R216). -/
theorem exec_eventInstr (ev : Event) (s : State) :
    exec (eventInstr ev) s = ifReachable s (assemblerState (fun a => advance a ev) s) := by
  cases ev <;> rfl

/-- What stage 2 does in a tick with a low sample: nothing, a completed frame or an invalidation (R135). -/
theorem advance_low_cases (s : State) :
    advance s.assembler (tickEvent false s) = (.quiet, s.assembler) ∨
    (tickEvent false s = .pause ∧ s.assembler.mode = .accumulating ∧ s.assembler.bitCnt = 32 ∧
      advance s.assembler (tickEvent false s) = completeFrame s.assembler) ∨
    (tickEvent false s = .invalid ∧ s.assembler.mode = .accumulating ∧
      advance s.assembler (tickEvent false s) = invalidate invClassify s.assembler) := by
  have hlow : tickEvent false s = .pause ∨ tickEvent false s = .none ∨ tickEvent false s = .invalid :=
    (lowRunEvent_cases s.params s.classifier.zeroRun).imp And.left (Or.imp And.left And.left)
  obtain ⟨heq, -⟩ | ⟨hev, -⟩ | hpause | hinvalid | ⟨-, hdata, -⟩ := advance_cases s.assembler (tickEvent false s)
  · exact .inl heq
  · simp [hev] at hlow
  · exact .inr (.inl hpause)
  · exact .inr (.inr hinvalid)
  · obtain hev | hev | hev := hlow <;> simp [hev, isDataCode, Event.code] at hdata

/-- A tick whose stage 2 yields no raw packet announces neither a packet nor a duplicate (R243). -/
theorem tickState_of_no_raw {b : Bool} {s : State} (h : (advance s.assembler (tickEvent b s)).1.raw = none) :
    (tickState b s).outputs.pktValid = false ∧ (tickState b s).outputs.dup = false := by
  have hfilter : filterRaw s.params (advance s.assembler (tickEvent b s)).1.raw (countdown s.dupFilter) =
      ⟨none, false, countdown s.dupFilter⟩ := by
    rw [h]
    rfl
  exact ⟨congrArg (fun r => r.accepted.isSome) hfilter, congrArg FilterResult.dup hfilter⟩

/-- Stage 3 accepts a packet or flags a duplicate, never both (R141, R248). -/
theorem filterRaw_accepted_or_dup (p : Params) (raw : Option Raw) (f : DupFilter) :
    ¬ ((filterRaw p raw f).accepted.isSome = true ∧ (filterRaw p raw f).dup = true) := by
  obtain ⟨-, heq⟩ | ⟨-, -, heq⟩ | ⟨v, -, -, heq⟩ := filterRaw_cases p raw f <;> simp [heq]

/-! ### NOP words erased (R143) -/

theorem AgreeButPulses.refl (s : State) : AgreeButPulses s s := ⟨rfl, rfl, rfl, rfl, rfl, rfl⟩

theorem AgreeButPulses.of_toRegs {s t : State} (hr : s.toRegs = t.toRegs) (hp : s.params = t.params) :
    AgreeButPulses s t :=
  ⟨congrArg _ hr, congrArg _ hr, congrArg _ hr, congrArg (fun r => r.outputs.evCode) hr,
    congrArg (fun r => r.outputs.pktRaw) hr, hp⟩

theorem AgreeButPulses.feedWords {s t : State} (h : AgreeButPulses s t) (vs ws : List InWord) :
    AgreeButPulses (s.feedWords vs) (t.feedWords ws) :=
  ⟨h.classifier, h.assembler, h.dupFilter, h.evCode, h.pktRaw, h.params⟩

/-- A NOP changes the four pulse outputs alone (R134). -/
theorem AgreeButPulses.idleState_left {s t : State} (h : AgreeButPulses s t) : AgreeButPulses (idleState s) t :=
  ⟨h.classifier, h.assembler, h.dupFilter, h.evCode, h.pktRaw, h.params⟩

/-- A tick reads no pulse output and writes all four (R133, R137-R140). -/
theorem AgreeButPulses.tickState_toRegs {s t : State} (h : AgreeButPulses s t) (b : Bool) :
    (tickState b s).toRegs = (tickState b t).toRegs := by
  obtain ⟨hcls, hasm, hdup, -, hraw, hp⟩ := h
  simp only [tickState, tick, OutputRegs.afterTick, hcls, hasm, hdup, hraw, hp]

/-- A word that is no NOP gives every register the same value. -/
theorem AgreeButPulses.wordState_toRegs {s t : State} (h : AgreeButPulses s t) {w : InWord}
    (hw : isNopWord w = false) : (wordState w s).toRegs = (wordState w t).toRegs := by
  unfold wordState
  split
  · rfl
  · next hreset =>
    have htick : w.getLsbD 1 ≠ false := fun hidle =>
      Bool.eq_false_iff.mp hw ((isNopWord_iff w).mpr ⟨Bool.eq_false_iff.mpr hreset, hidle⟩)
    rw [if_neg htick, if_neg htick]
    exact h.tickState_toRegs _

/-- The words without the NOPs. -/
abbrev eraseNops (ws : List InWord) : List InWord := ws.filter (fun w => !isNopWord w)

/-- With the NOPs erased the registers but the pulses take the same values (R143): a NOP keeps the agreement on one
side, and any other word restores it on both. -/
theorem agreeButPulses_eraseNops {s t : State} (h : AgreeButPulses s t) (ws : List InWord) :
    AgreeButPulses (wordsState ws s) (wordsState (eraseNops ws) t) := by
  induction ws generalizing s t with
  | nil => exact h
  | cons w ws ih =>
    by_cases hw : isNopWord w = true
    · rw [eraseNops, List.filter_cons_of_neg (by simp [hw])]
      refine ih (s := wordState w s) ?_
      rw [wordState_of_nop hw s]
      exact h.idleState_left
    · rw [eraseNops, List.filter_cons_of_pos (by simp [hw])]
      have hregs := h.wordState_toRegs (Bool.eq_false_iff.mpr hw)
      have hparams : (wordState w s).params = (wordState w t).params := by
        rw [wordState_params, wordState_params, h.params]
      exact ih (.of_toRegs hregs hparams)

/-! ### The statements -/

/-- Settles O19: a legal state goes on with `wordState`, whose tick is R145's, stage by stage. -/
theorem stepIsWholeStepFunction : Obligations.StepIsWholeStepFunction := fun s w rest hs =>
  ⟨_, step_port_of_legal hs w rest, wordState_toRegs w s, wordState_params w s, rfl⟩

/-- Settles O42: the reported code decodes to the event's own operation, which runs the same `advance`. -/
theorem tickRunsItsEvent : Obligations.TickRunsItsEvent := by
  intro s hs i hi
  have hrun (b : Bool) := (exec_eventInstr (tickEvent b s) s).trans (ifReachable_next hs)
  obtain rfl | rfl := List.mem_pair.mp hi
  · exact ⟨_, _, _, ifReachable_next hs, decode_event (tickEvent false s), hrun false, rfl, rfl, rfl⟩
  · exact ⟨_, _, _, ifReachable_next hs, decode_event (tickEvent true s), hrun true, rfl, rfl, rfl⟩

/-- Settles O43: by the three things stage 2 does on a low sample. -/
theorem lowTickNeverAppends : Obligations.LowTickNeverAppends := by
  intro s hs
  refine ⟨_, ifReachable_next hs, ?_⟩
  have hcode : (tickState false s).outputs.evCode = (tickEvent false s).code := rfl
  have hinv : (tickState false s).outputs.inv = (advance s.assembler (tickEvent false s)).1.cause := rfl
  rw [tickState_assembler, hcode, hinv]
  obtain heq | ⟨hev, hm, h32, heq⟩ | ⟨hev, hm, heq⟩ := advance_low_cases s <;> rw [heq]
  · exact .inl rfl
  · exact .inr ⟨hm, rfl, .inr ⟨congrArg Event.code hev, h32, rfl⟩⟩
  · exact .inr ⟨hm, rfl, .inl ⟨congrArg Event.code hev, rfl⟩⟩

/-- Settles O48: stage 3 announces only what a PAUSE completed, and a cause comes without a raw packet. -/
theorem outcomesOfATickExclude : Obligations.OutcomesOfATickExclude := by
  intro s hs
  refine ⟨⟨_, ifReachable_next hs, filterRaw_accepted_or_dup _ _ _, ?_, fun hinv => ?_, fun hann => ?_⟩,
    _, ifReachable_next hs, ?_⟩
  · change (advance s.assembler (tickEvent false s)).1.cause = 0 ∨ _
    obtain heq | ⟨-, -, -, heq⟩ | ⟨-, -, heq⟩ := advance_low_cases s
    · exact .inl (congrArg (fun q => q.1.cause) heq)
    · exact .inl (congrArg (fun q => q.1.cause) heq)
    · exact .inr (congrArg (fun q => q.1.cause) heq)
  · exact tickState_of_no_raw ((advance_no_raw_or_no_cause _ _).resolve_right hinv)
  · by_contra hcode
    have hpause : tickEvent false s ≠ .pause := fun hev => hcode (congrArg Event.code hev)
    obtain ⟨hpkt, hdup⟩ := tickState_of_no_raw (advance_raw_of_ne_pause s.assembler hpause)
    exact hann.elim (Bool.eq_false_iff.mp hpkt) (Bool.eq_false_iff.mp hdup)
  · exact tickState_of_no_raw (advance_raw_of_ne_pause _ (classify_high_ne_pause _ _))

/-- Settles O58: with no word left the state holds, and an input word takes a legal state to a legal one. -/
theorem coreNeverStops : Obligations.CoreNeverStops := by
  intro s ws n hs
  obtain ⟨hlegal, -⟩ := hs
  induction n generalizing s ws with
  | zero => exact ⟨_, rfl⟩
  | succ n ih =>
    cases ws with
    | nil =>
      rw [runClocks_succ n (step_of_no_input rfl)]
      exact ih s [] hlegal
    | cons w ws =>
      rw [runClocks_succ n (step_feedWords_cons hlegal w ws)]
      exact ih _ ws (wordState_legal w hlegal)

/-- Settles O60: the two runs agree but in the pulses, and a last word that is no NOP writes these too. -/
theorem nopsCanBeErased : Obligations.NopsCanBeErased := by
  intro s ws hs
  have hagree (vs : List InWord) := agreeButPulses_eraseNops (AgreeButPulses.refl s) vs
  refine ⟨_, _, runClocks_feedWords hs ws, runClocks_feedWords hs _, (hagree ws).feedWords [] [], fun w hlast hw => ?_⟩
  obtain ⟨vs, rfl⟩ := List.getLast?_eq_some_iff.mp hlast
  change (wordsState (vs ++ [w]) s).toRegs = (wordsState (eraseNops (vs ++ [w])) s).toRegs
  have herase : eraseNops (vs ++ [w]) = eraseNops vs ++ [w] := by simp [eraseNops, hw]
  rw [herase, wordsState_append, wordsState_append]
  exact (hagree vs).wordState_toRegs hw

/-- Settles O15: `step` is `fetch`, `decode` and `exec`. -/
theorem stepRunsDecodedOperation : Obligations.StepRunsDecodedOperation := by
  intro s x rest i hd
  rw [step_of_input rfl, hd]
  rfl

/-- Settles O16: `step_port`. -/
theorem stepDispatchesOnInputWord : Obligations.StepDispatchesOnInputWord := step_port

/-- Settles O18: NOP asks for legal parameters alone. -/
theorem nopClearsOnlyPulses : Obligations.NopClearsOnlyPulses := fun _ h => ifConfigured_next h

end Sys2Proof.Machine
end

section
/-!
PROOFS. The statements of spec/41_classifier.md on one sample: the run counters, the event and the last event of a tick
with a 0 sample (R169-R173) and of one with a 1 sample (R161-R168, R173).
-/

namespace Sys2Proof.Machine

/-! ### What a tick shows of stage 1 (R137, R173) -/

theorem tickState_evCode (b : Bool) (s : State) : (tickState b s).outputs.evCode = (tickEvent b s).code := rfl

/-- LAST_EV after a tick, by the code the tick reports: NONE alone leaves it (R173). -/
theorem tickState_lastEv (b : Bool) (s : State) :
    (tickState b s).classifier.lastEv =
      if (tickState b s).outputs.evCode = 0 then s.classifier.lastEv else (tickState b s).outputs.evCode := by
  simp only [tickState_classifier, classify_lastEv, recordEvent, tickState_evCode, code_eq_zero_iff]

/-! ### A 0 sample, by the guard ceiling (R170-R172) -/

theorem classify_low_below_ceiling {p : Params} {c : Classifier} (h : c.zeroRun < p.guardCeil) :
    (classify p c false).2.zeroRun = c.zeroRun + 1 ∧
      (classify p c false).1.code = if c.zeroRun + 1 = p.endThresh then 6 else 0 := by
  refine ⟨if_pos h, ?_⟩
  change (lowRunEvent p c.zeroRun).code = _
  obtain ⟨hev, -, hend⟩ | ⟨hev, -, hend⟩ | ⟨-, hceil⟩ := lowRunEvent_cases p c.zeroRun
  · rw [hev, if_pos hend]
    rfl
  · rw [hev, if_neg hend]
    rfl
  · exact absurd h hceil.not_gt

theorem classify_low_at_ceiling {p : Params} {c : Classifier} (h : c.zeroRun = p.guardCeil) :
    (classify p c false).2.zeroRun = p.guardCeil ∧ (classify p c false).1.code = 1 := by
  refine ⟨(if_neg h.not_lt).trans h, ?_⟩
  change (lowRunEvent p c.zeroRun).code = _
  obtain ⟨-, hlt, -⟩ | ⟨-, hlt, -⟩ | ⟨hev, -⟩ := lowRunEvent_cases p c.zeroRun
  · exact absurd h hlt.ne
  · exact absurd h hlt.ne
  · rw [hev]
    rfl

/-! ### The statements -/

/-- Settles O20: below the ceiling the zero run counts; not below it, a legal zero run is at the ceiling. -/
theorem lowSampleClassified : Obligations.LowSampleClassified := by
  intro s hs
  refine ⟨_, ifReachable_next hs, rfl, rfl, ?_, tickState_lastEv false s⟩
  obtain ⟨-, ⟨hzero, -⟩, -⟩ := hs
  split
  · next hlt => exact classify_low_below_ceiling hlt
  · next hge => exact classify_low_at_ceiling (hzero.antisymm (not_lt.mp hge))

/-- Settles O21: the code of the tick's event is the one R145 lists, window by window, on the one run counted with
saturation. -/
theorem highSampleClassified : Obligations.HighSampleClassified := by
  intro s hs
  have hcode : (tickState true s).outputs.evCode = wholeEvent s.params true s.classifier :=
    (wholeEvent_high s.params s.classifier).symm
  exact ⟨_, ifReachable_next hs, rfl, rfl, classify_high_oneRun _ _, hcode, tickState_lastEv true s⟩

end Sys2Proof.Machine
end

section
/-!
PROOFS. The statements of spec/42_assembler.md: stage 2 by event (R202-R215, R224), the quartets presented alone, and the
events of a frame (R226, R227). An event or a quartet presented alone is an action of stage 2 on the assembler
(`exec_assemblerAction`, `exec_dataInstr`, `exec_quartetInstr`); a run of events is `afterEvents`, which
`runClocks_events` ties to the step and `afterEvents_concat` to `assembleRun`.
-/

namespace Sys2Proof.Machine

/-! ### Stage 2 presented alone (R200) -/

/-- From a legal state an action of stage 2 presented alone writes the assembler and its results by what the action
gives. -/
theorem ifReachable_assemblerState {s : State} (hs : s.Legal) {f : Assembler → Stage2Out × Assembler}
    {q : Stage2Out × Assembler} (h : f s.assembler = q) :
    ifReachable s (assemblerState f s) = .next { s with assembler := q.2, asmOut := q.1 } := by
  rw [ifReachable_next hs, assemblerState, h]

theorem assemblerState_congr {f g : Assembler → Stage2Out × Assembler} {s : State} (h : f s.assembler = g s.assembler) :
    assemblerState f s = assemblerState g s := by
  rw [assemblerState, assemblerState, h]

/-- Every event but the reserved code, and either quartet, presented alone is an action of stage 2. -/
theorem exec_assemblerAction : ∀ i ∈ [Instr.evNone, .evInvalid, .evHighShort, .evLowShort, .evLowLong, .evSync,
    .evPause, .qBit0, .qBit1], ∃ f, ∀ s, exec i s = ifReachable s (assemblerState f s) := by
  simp only [List.forall_mem_cons]
  exact ⟨⟨_, fun _ => rfl⟩, ⟨_, fun _ => rfl⟩, ⟨_, fun _ => rfl⟩, ⟨_, fun _ => rfl⟩, ⟨_, fun _ => rfl⟩,
    ⟨_, fun _ => rfl⟩, ⟨_, fun _ => rfl⟩, ⟨_, fun _ => rfl⟩, ⟨_, fun _ => rfl⟩, List.forall_mem_nil _⟩

/-- The operations of the data events, each with its code (R94, R98). -/
abbrev dataInstrs : List (Instr × EvCode) := [(.evHighShort, 2), (.evLowShort, 3), (.evLowLong, 4)]

/-- In ACCUMULATING a data event presented alone appends its code (R207). -/
theorem exec_dataInstr {s : State} (hs : s.Legal) (hm : s.assembler.mode = .accumulating) {ic : Instr × EvCode}
    (hic : ic ∈ dataInstrs) {q : Stage2Out × Assembler} (h : appendEvent ic.2 s.assembler = q) :
    exec ic.1 s = .next { s with assembler := q.2, asmOut := q.1 } := by
  have hexec : exec ic.1 s = ifReachable s (assemblerState (onData ic.2) s) := by
    simp only [dataInstrs, List.mem_cons, List.not_mem_nil, or_false] at hic
    obtain rfl | rfl | rfl := hic <;> rfl
  rw [hexec]
  exact ifReachable_assemblerState hs ((whenAccumulating_accumulating hm).trans h)

/-! ### PAUSE in ACCUMULATING (R212, R213) -/

theorem onPause_complete {a : Assembler} (hm : a.mode = .accumulating) (h32 : a.bitCnt = 32) :
    onPause a = completeFrame a := (whenAccumulating_accumulating hm).trans (if_pos h32)

theorem onPause_early {a : Assembler} (hm : a.mode = .accumulating) (h32 : a.bitCnt ≠ 32) :
    onPause a = (.quiet, a) := (whenAccumulating_accumulating hm).trans (if_neg h32)

/-! ### A data event, by the cursor (R207, R208) -/

/-- Below the last slot the event waits in the window. -/
theorem appendEvent_waits {a : Assembler} (c : EvCode) (h : a.winCnt.toNat < 3) :
    appendEvent c a = (.quiet, { a with win := a.win.set a.winCnt.toFin c, winCnt := a.winCnt + 1 }) := by
  have hsucc : BitVec.ofNat 2 (a.winCnt.toNat + 1) = a.winCnt + 1 := by bv_omega
  have hlt : a.winCnt.toNat + 1 < 4 := by omega
  simp only [appendEvent, if_pos hlt, hsucc]

/-- In the last slot the event fills the window, which is interpreted. -/
theorem appendEvent_fills {a : Assembler} (c : EvCode) (h : a.winCnt = 3) :
    appendEvent c a = interpretQuartet { a.win with w3 := c } a := by
  simp only [appendEvent, h]
  rfl

/-! ### Filled windows (R208-R211) -/

theorem interpretQuartet_malformed {q : Window} (a : Assembler) (h0 : q ≠ .bit0) (h1 : q ≠ .bit1) :
    interpretQuartet q a = invalidate invQuartet a := by
  rw [interpretQuartet, Window.dataBit, if_neg h0, if_neg h1]

theorem Window.eq_bit0_iff (w : Window) : w = .bit0 ↔ w.w0 = 2 ∧ w.w1 = 3 ∧ w.w2 = 2 ∧ w.w3 = 4 :=
  iff_of_eq (Window.mk.injEq ..)

theorem Window.eq_bit1_iff (w : Window) : w = .bit1 ↔ w.w0 = 2 ∧ w.w1 = 4 ∧ w.w2 = 2 ∧ w.w3 = 3 :=
  iff_of_eq (Window.mk.injEq ..)

/-- The fourth event of a canonical quartet does to the assembler what the quartet does (R208). -/
theorem onData_fourth {a : Assembler} {c : EvCode} {b : Bool} (hm : a.mode = .accumulating) (hcnt : a.winCnt = 3)
    (hwin : { a.win with w3 := c } = if b then Window.bit1 else .bit0) : onData c a = onMatchedQuartet b a := by
  rw [onData, onMatchedQuartet, whenAccumulating_accumulating hm, whenAccumulating_accumulating hm,
    appendEvent_fills c hcnt, hwin]
  cases b <;> rfl

/-- The accumulator moves up one place and the bit enters at bit 0 (R15). -/
theorem shlIn_eq_append (acc : Raw) (b : Bool) : shlIn acc b = acc.extractLsb' 0 31 ++ BitVec.ofBool b := by
  refine BitVec.eq_of_getLsbD_eq fun i hi => ?_
  change _ = BitVec.getLsbD (w := 31 + 1) (_ ++ _) i
  rw [BitVec.getLsbD_append]
  rcases i with _ | i
  · simp [shlIn]
  · have hlt : i < 31 := by omega
    simp [shlIn, hi, hlt, BitVec.getLsbD_eq_getElem (Nat.lt_succ_of_lt hlt)]

theorem onMatchedQuartet_below {a : Assembler} (b : Bool) (hm : a.mode = .accumulating) (h : a.bitCnt.toNat < 32) :
    onMatchedQuartet b a =
      (.quiet, { a with win := .empty, winCnt := 0, acc := shlIn a.acc b, bitCnt := a.bitCnt + 1 }) := by
  have hne : a.bitCnt ≠ 32 := by bv_omega
  exact (whenAccumulating_accumulating hm).trans (if_neg hne)

theorem onMatchedQuartet_full {a : Assembler} (b : Bool) (hm : a.mode = .accumulating) (h : a.bitCnt = 32) :
    onMatchedQuartet b a = invalidate invOverflow a := (whenAccumulating_accumulating hm).trans (if_pos h)

/-- The operation of a data bit's quartet (R97). -/
def quartetInstr : Bool → Instr
  | false => .qBit0
  | true => .qBit1

/-- The two operations, each with its bit. -/
theorem exists_quartetInstr {ib : Instr × BitVec 1} (h : ib ∈ [(Instr.qBit0, 0#1), (.qBit1, 1#1)]) :
    ∃ b, ib = (quartetInstr b, BitVec.ofBool b) := by
  obtain rfl | rfl := List.mem_pair.mp h
  · exact ⟨false, rfl⟩
  · exact ⟨true, rfl⟩

theorem exec_quartetInstr (b : Bool) (s : State) :
    exec (quartetInstr b) s = ifReachable s (assemblerState (onMatchedQuartet b) s) := by
  cases b <;> rfl

/-- A quartet in ACCUMULATING shifts its bit in below 32 bits (R209). -/
theorem exec_quartetInstr_below {s : State} (hs : s.Legal) (hm : s.assembler.mode = .accumulating) (b : Bool)
    (h : s.assembler.bitCnt.toNat < 32) :
    exec (quartetInstr b) s = .next
      { s with
        assembler :=
          { mode := .accumulating, win := .empty, winCnt := 0,
            acc := s.assembler.acc.extractLsb' 0 31 ++ BitVec.ofBool b, bitCnt := s.assembler.bitCnt + 1 }
        asmOut := .quiet } := by
  rw [exec_quartetInstr, ifReachable_assemblerState hs (onMatchedQuartet_below b hm h), shlIn_eq_append, hm]

/-- A quartet in ACCUMULATING overflows at 32 bits (R210). -/
theorem exec_quartetInstr_full {s : State} (hs : s.Legal) (hm : s.assembler.mode = .accumulating) (b : Bool)
    (h : s.assembler.bitCnt = 32) :
    exec (quartetInstr b) s = .next { s with assembler := .idle, asmOut := ⟨none, invOverflow⟩ } := by
  rw [exec_quartetInstr, ifReachable_assemblerState hs (onMatchedQuartet_full b hm h)]
  rfl

/-! ### Runs of events (R101, R226) -/

/-- The state after some events, each presented alone. -/
def afterEvents (s : State) (es : List Event) : State :=
  es.foldl (fun s ev => assemblerState (fun a => advance a ev) s) s

/-- At a legal state the clock of an event runs `advance` on it (R200, R216). -/
theorem step_event {s : State} (hs : s.Legal) (ev : Event) (xs : List Stimulus) :
    step (s.feed (.event ev.code :: xs)) = .next ((assemblerState (fun a => advance a ev) s).feed xs) := by
  rw [step_of_input rfl, decode_event]
  exact (exec_eventInstr ev _).trans (ifReachable_next (s := s.feed xs) hs)

theorem runClocks_events {s : State} (hs : s.Legal) (es : List Event) (rest : List Stimulus) :
    runClocks es.length (s.feed (es.map (fun ev => .event ev.code) ++ rest)) = .next ((afterEvents s es).feed rest) := by
  induction es generalizing s with
  | nil => rfl
  | cons ev es ih =>
    rw [List.length_cons, List.map_cons, List.cons_append, runClocks_succ _ (step_event hs ev _)]
    exact ih (assemblerState_legal (.event ev) hs)

/-- A run of events leaves the assembler of `assembleRun` and the results of its last event, and nothing else changes. -/
theorem afterEvents_concat (s : State) (es : List Event) (ev : Event) :
    afterEvents s (es ++ [ev]) =
      { s with
        assembler := (advance (assembleRun s.assembler es) ev).2
        asmOut := (advance (assembleRun s.assembler es) ev).1 } := by
  induction es generalizing s with
  | nil => rfl
  | cons e es ih => exact ih (assemblerState (fun a => advance a e) s)

/-- Data events that do not fill the window leave MODE, the accumulator and the bit count (R207). -/
theorem assembleRun_data_waits {a : Assembler} {es : List Event} (hm : a.mode = .accumulating)
    (hdata : ∀ e ∈ es, isDataEvent e = true) (hlen : a.winCnt.toNat + es.length ≤ 3) :
    (assembleRun a es).mode = .accumulating ∧ (assembleRun a es).acc = a.acc ∧
      (assembleRun a es).bitCnt = a.bitCnt := by
  induction es generalizing a with
  | nil => exact ⟨hm, rfl, rfl⟩
  | cons e es ih =>
    obtain ⟨he, hes⟩ := List.forall_mem_cons.mp hdata
    rw [List.length_cons] at hlen
    have hadv : advance a e = appendEvent e.code a := by
      cases e with
      | highShort | lowShort | lowLong => exact whenAccumulating_accumulating hm
      | none | invalid | sync | pause => cases he
    have hcnt : (a.winCnt + 1).toNat = a.winCnt.toNat + 1 := by bv_omega
    rw [assembleRun_cons, hadv, appendEvent_waits e.code (by omega)]
    exact ih hm hes (by rw [hcnt]; omega)

/-- SYNC and the quartets of a payload collect it, whatever frame was in progress (R227). -/
theorem assembleRun_sync_bits (a : Assembler) (v : Raw) :
    assembleRun a (.sync :: (bitsMsbFirst v).flatMap bitEvents) = collecting v 32 := by
  have hbits := assembleRun_bits (acc := 0) (n := 0) (bitsMsbFirst v) (by rw [bitsMsbFirst_length])
  rwa [foldl_shlIn_bitsMsbFirst, bitsMsbFirst_length] at hbits

/-- PAUSE after the events of a frame yields its payload, whatever state it began in (R212, R226, R227). -/
theorem advance_pause_of_frame (a : Assembler) (v : Raw) {pending : List Event} (hlen : pending.length ≤ 3)
    (hdata : ∀ e ∈ pending, isDataEvent e = true) :
    advance (assembleRun a (.sync :: (bitsMsbFirst v).flatMap bitEvents ++ pending)) .pause =
      (⟨some v, 0⟩, .idle) := by
  obtain ⟨hmode, hacc, hbits⟩ :=
    assembleRun_data_waits (a := collecting v 32) rfl hdata (by rw [Nat.add_comm]; exact hlen)
  rw [assembleRun_append, assembleRun_sync_bits, advance, onPause_complete hmode hbits, completeFrame, hacc]
  rfl

theorem frameEvents_length (v : Raw) (pending : List Event) :
    (frameEvents v pending).length = 130 + pending.length := by
  have hbit (b : Bool) : (bitEvents b).length = 4 := by cases b <;> rfl
  simp only [frameEvents, List.length_cons, List.length_append, List.length_nil, List.length_flatMap, hbit,
    List.map_const', List.sum_replicate, bitsMsbFirst_length, smul_eq_mul]
  omega

/-! ### The statements -/

/-- Settles O41: the frame is a body and its PAUSE, after which the assembler is idle with the payload as its result. -/
theorem frameEventsYieldPayload : Obligations.FrameEventsYieldPayload := by
  intro s v pending rest hs hlen hdata
  have hsplit : frameEvents v pending = (.sync :: (bitsMsbFirst v).flatMap bitEvents ++ pending) ++ [.pause] := rfl
  rw [← frameEvents_length v pending, runClocks_events hs, hsplit, afterEvents_concat,
    advance_pause_of_frame s.assembler v hlen hdata]
  rfl

/-- Settles O26: each of the six is the operation of an event other than SYNC, which `advance` ignores. -/
theorem searchingIgnoresAllButSync : Obligations.SearchingIgnoresAllButSync := by
  intro s hs hm i hi
  change i ∈ [Event.none, .invalid, .highShort, .lowShort, .lowLong, .pause].map eventInstr at hi
  obtain ⟨ev, hev, rfl⟩ := List.mem_map.mp hi
  have hne : ev ≠ .sync := by
    rintro rfl
    exact absurd hev (by decide)
  rw [exec_eventInstr]
  exact ifReachable_assemblerState (f := fun a => advance a ev) hs (advance_searching hm hne)

/-- Settles O27: stage 2 ignores NONE. -/
theorem noneEventChangesNothing : Obligations.NoneEventChangesNothing :=
  fun _ hs => ifReachable_assemblerState (f := onNone) hs rfl

/-- Settles O28: INVALID in ACCUMULATING is `invalidate invClassify`. -/
theorem invalidEventInvalidates : Obligations.InvalidEventInvalidates :=
  fun _ hs hm => ifReachable_assemblerState (f := onInvalid) hs (whenAccumulating_accumulating hm)

/-- Settles O29: SYNC is `rearm` in either mode. -/
theorem syncEventRearms : Obligations.SyncEventRearms :=
  fun _ hs => ifReachable_assemblerState (f := onSync) hs rfl

/-- Settles O30: the frame is completed, whatever the window holds. -/
theorem pauseEventCompletesFrame : Obligations.PauseEventCompletesFrame :=
  fun _ hs hm h32 => ifReachable_assemblerState (f := onPause) hs (onPause_complete hm h32)

/-- Settles O31: fewer than 32 bits are not 32. -/
theorem earlyPauseEventIgnored : Obligations.EarlyPauseEventIgnored := by
  intro s hs hm hlt
  have hne : s.assembler.bitCnt ≠ 32 := by bv_omega
  exact ifReachable_assemblerState (f := onPause) hs (onPause_early hm hne)

/-- Settles O32: the event waits in the window, whose slots `window_set_eq` writes out. -/
theorem dataEventAppended : Obligations.DataEventAppended := by
  intro s hs hm hlt ic hic
  have hlast : s.assembler.winCnt ≠ 3 := by bv_omega
  rw [exec_dataInstr hs hm hic (appendEvent_waits ic.2 hlt), window_set_eq, if_neg hlast]
  rfl

/-- Settles O35: the filled window is neither canonical quartet. -/
theorem malformedQuartetInvalidates : Obligations.MalformedQuartetInvalidates := by
  intro s hs hm hcnt ic hic hbit0 hbit1
  have hmalformed : appendEvent ic.2 s.assembler = invalidate invQuartet s.assembler :=
    (appendEvent_fills ic.2 hcnt).trans
      (interpretQuartet_malformed _ (mt (Window.eq_bit0_iff _).mp hbit0) (mt (Window.eq_bit1_iff _).mp hbit1))
  exact exec_dataInstr hs hm hic hmalformed

/-- Settles O36: code 7 has the meaning of no event. -/
theorem reservedEventRefused : Obligations.ReservedEventRefused := fun _ => rfl

/-- Settles O37: a bit count that is legal and not below 32 is 32. -/
theorem quartetOperationShiftsOrOverflows : Obligations.QuartetOperationShiftsOrOverflows := by
  intro s hs hm ib hib
  obtain ⟨b, rfl⟩ := exists_quartetInstr hib
  split
  · next hlt => exact exec_quartetInstr_below hs hm b hlt
  · next hge =>
    have ⟨_, _, ⟨_, _, hbits, _⟩, _⟩ := hs
    have h32 : s.assembler.bitCnt = 32 := by bv_omega
    exact exec_quartetInstr_full hs hm b h32

/-- Settles O38: a quartet is an action of ACCUMULATING alone. -/
theorem quartetOperationIgnoredInSearching : Obligations.QuartetOperationIgnoredInSearching := by
  intro s hs hm i hi
  have hquartet (b : Bool) := ifReachable_assemblerState (f := onMatchedQuartet b) hs (whenAccumulating_searching hm)
  obtain rfl | rfl := List.mem_pair.mp hi
  · exact hquartet false
  · exact hquartet true

/-- Settles O39: the event and the quartet are the same action on the assembler. -/
theorem fourthEventIsItsQuartet : Obligations.FourthEventIsItsQuartet := by
  intro s hm hcnt h0 h2
  have hfourth {c : EvCode} {b : Bool} (hwin : { s.assembler.win with w3 := c } = if b then Window.bit1 else .bit0) :
      ifReachable s (assemblerState (onData c) s) = ifReachable s (assemblerState (onMatchedQuartet b) s) :=
    congrArg (ifReachable s) (assemblerState_congr (onData_fourth hm hcnt hwin))
  exact ⟨fun h1 => hfourth (b := false) ((Window.eq_bit0_iff _).mpr ⟨h0, h1, h2, rfl⟩),
    fun h1 => hfourth (b := true) ((Window.eq_bit1_iff _).mpr ⟨h0, h1, h2, rfl⟩)⟩

/-- Settles O33: the event does what its quartet does, and below 32 bits that shifts the bit in. -/
theorem matchedQuartetShiftsBitIn : Obligations.MatchedQuartetShiftsBitIn := by
  intro s hs hm hcnt hlt
  refine ⟨fun ⟨h0, h1, h2⟩ => ?_, fun ⟨h0, h1, h2⟩ => ?_⟩
  · exact ((fourthEventIsItsQuartet s hm hcnt h0 h2).1 h1).trans (exec_quartetInstr_below hs hm false hlt)
  · exact ((fourthEventIsItsQuartet s hm hcnt h0 h2).2 h1).trans (exec_quartetInstr_below hs hm true hlt)

/-- Settles O34: the event does what its quartet does, and at 32 bits that overflows. -/
theorem thirtyThirdBitOverflows : Obligations.ThirtyThirdBitOverflows := by
  intro s hs hm hcnt h32 ic hic h0 h1 h2
  obtain rfl | rfl := List.mem_pair.mp hic
  · exact ((fourthEventIsItsQuartet s hm hcnt h0 h2).1 h1).trans (exec_quartetInstr_full hs hm false h32)
  · exact ((fourthEventIsItsQuartet s hm hcnt h0 h2).2 h1).trans (exec_quartetInstr_full hs hm true h32)

/-- Settles O50: each of the nine is an action of stage 2, and `assemblerState` writes nothing else. -/
theorem eventsAndQuartetsTouchOnlyAssembler : Obligations.EventsAndQuartetsTouchOnlyAssembler := by
  intro i hi s t h
  obtain ⟨f, hf⟩ := exec_assemblerAction i hi
  obtain ⟨-, rfl⟩ := ifReachable_eq_next ((hf s).symm.trans h)
  exact ⟨rfl, rfl, rfl, rfl, rfl⟩

end Sys2Proof.Machine
end

section
/-!
PROOFS. The statements of spec/43_filter_packet.md: stages 0 and 3 in a tick (R241-R246), the time an accepted value is
suppressed for (R249), and the packet's fields on the ports (R251, R253). A tick either accepts a packet or leaves the
record as the countdown gives it (`tickState_of_not_accepted`), so a run without announcements iterates the countdown.
-/

namespace Sys2Proof.Machine

/-! ### Stage 0 and stage 3 (R241, R244, R245) -/

theorem countdown_eq (f : DupFilter) :
    countdown f =
      if f.cdCnt = 0 then f
      else if f.cdCnt = 1 then { lastRaw := 0, lastValid := false, cdCnt := 0 }
      else { f with cdCnt := f.cdCnt - 1 } := by
  obtain ⟨h0, heq⟩ | ⟨h1, heq⟩ | ⟨h0, h1, heq⟩ := countdown_cases f
  · rw [heq, if_pos h0]
  · rw [heq, if_neg (by simp [h1]), if_pos h1]
  · rw [heq, if_neg h0, if_neg h1]

theorem filterRaw_repeated (p : Params) {v : Raw} {f : DupFilter} (hvalid : f.lastValid = true)
    (hraw : f.lastRaw = v) : filterRaw p (some v) f = ⟨none, true, f⟩ := if_pos ⟨hvalid, hraw.symm⟩

theorem filterRaw_new (p : Params) {v : Raw} {f : DupFilter} (h : f.lastValid = true → f.lastRaw ≠ v) :
    filterRaw p (some v) f = ⟨some v, false, ⟨v, true, BitVec.ofNat 16 p.cooldownTicks⟩⟩ :=
  if_neg fun ⟨hvalid, hraw⟩ => h hvalid hraw.symm

/-! ### The tick that completes a frame (R212, R244, R246) -/

/-- A low sample completes a frame: 32 bits are collected and the zero run reaches the threshold (R172, R212). -/
def State.CompletesFrame (s : State) : Prop :=
  s.assembler.mode = .accumulating ∧ s.assembler.bitCnt = 32 ∧ s.classifier.zeroRun + 1 = s.params.endThresh

theorem tickEvent_of_endThresh {s : State} (hp : s.params.Legal) (h : s.classifier.zeroRun + 1 = s.params.endThresh) :
    tickEvent false s = .pause := by
  obtain ⟨-, -, -, -, -, hguard, -⟩ := hp
  obtain ⟨hev, -⟩ | ⟨-, -, hend⟩ | ⟨-, hceil⟩ := lowRunEvent_cases s.params s.classifier.zeroRun
  · exact hev
  · exact absurd h hend
  · omega

/-- Stage 3 takes the collected packet, and the assembler returns to SEARCHING. -/
theorem tickState_of_completesFrame {s : State} {r : FilterResult} (hp : s.params.Legal) (hc : s.CompletesFrame)
    (hr : filterRaw s.params (some s.assembler.acc) (countdown s.dupFilter) = r) :
    (tickState false s).outputs = s.outputs.afterTick 6 0 r.dup r.accepted ∧
      (tickState false s).dupFilter = r.dupFilter ∧ (tickState false s).assembler = .idle := by
  obtain ⟨hm, h32, hend⟩ := hc
  have hev := tickEvent_of_endThresh hp hend
  obtain ⟨hidle, hout⟩ := tickState_of_pause hev hm h32
  have hraw : (advance s.assembler (tickEvent false s)).1.raw = some s.assembler.acc := by
    rw [hev, advance, onPause_complete hm h32]
    rfl
  refine ⟨hr ▸ hout, ?_, hidle⟩
  rw [← hr, ← hraw]
  rfl

/-- Stage 2 yields a raw packet on a low sample only when the frame is complete (R135, R212). -/
theorem advance_low_raw_of_not_completesFrame {s : State} (h : ¬ s.CompletesFrame) :
    (advance s.assembler (tickEvent false s)).1.raw = none := by
  obtain heq | ⟨hev, hm, h32, -⟩ | ⟨-, -, heq⟩ := advance_low_cases s
  · exact congrArg (fun q => q.1.raw) heq
  · obtain ⟨-, -, hend⟩ | ⟨hnone, -⟩ | ⟨hinvalid, -⟩ := lowRunEvent_cases s.params s.classifier.zeroRun
    · exact absurd ⟨hm, h32, hend⟩ h
    · exact Event.noConfusion (hev.symm.trans hnone)
    · exact Event.noConfusion (hev.symm.trans hinvalid)
  · exact congrArg (fun q => q.1.raw) heq

/-! ### Ticks without an acceptance (R241, R243, R244) -/

/-- Only an acceptance writes PKT_RAW and the record; any other tick leaves the record to the countdown. -/
theorem tickState_of_not_accepted {b : Bool} {s : State} (h : (tickState b s).outputs.pktValid = false) :
    (tickState b s).dupFilter = countdown s.dupFilter ∧ (tickState b s).outputs.pktRaw = s.outputs.pktRaw := by
  simp only [tickState_outputs, tickState_dupFilter, tick, afterTick_pktValid, afterTick_pktRaw] at h ⊢
  obtain ⟨-, heq⟩ | ⟨-, -, heq⟩ | ⟨v, -, -, heq⟩ := filterRaw_cases s.params
    (advance s.assembler (tickEvent b s)).1.raw (countdown s.dupFilter) <;> rw [heq] at h ⊢
  · exact ⟨rfl, rfl⟩
  · exact ⟨rfl, rfl⟩
  · cases h

/-- A tick without a raw packet is such a tick, and reports no duplicate either. -/
theorem tickState_only_counts_down {b : Bool} {s : State}
    (h : (advance s.assembler (tickEvent b s)).1.raw = none) :
    (tickState b s).outputs.pktValid = false ∧ (tickState b s).outputs.dup = false ∧
      (tickState b s).outputs.pktRaw = s.outputs.pktRaw ∧
      (tickState b s).dupFilter =
        if s.dupFilter.cdCnt = 0 then s.dupFilter
        else if s.dupFilter.cdCnt = 1 then { lastRaw := 0, lastValid := false, cdCnt := 0 }
        else { s.dupFilter with cdCnt := s.dupFilter.cdCnt - 1 } := by
  obtain ⟨hvalid, hdup⟩ := tickState_of_no_raw h
  obtain ⟨hrec, hpkt⟩ := tickState_of_not_accepted hvalid
  exact ⟨hvalid, hdup, hpkt, hrec.trans (countdown_eq _)⟩

theorem ticks_dupFilter_of_no_announcements {s : State} (hs : s.Legal) {bs : List Bool}
    (h : announcements bs.length (s.feedWords (bs.map tickWord)) = []) :
    (ticks bs s).dupFilter = countdown^[bs.length] s.dupFilter := by
  induction bs generalizing s with
  | nil => rfl
  | cons b bs ih =>
    have hstep := step_tickWord hs b (bs.map tickWord)
    obtain ⟨hfirst, hrest⟩ := List.append_eq_nil_iff.mp ((announcements_succ bs.length hstep).symm.trans h)
    obtain ⟨hcount, -⟩ := tickState_of_not_accepted (b := b) (s := s) ((announced_eq_nil _).mp hfirst)
    rw [ticks_cons, ih (tickState_legal b hs) hrest, hcount, List.length_cons, Function.iterate_succ_apply]

/-! ### The packet's fields (R251) -/

/-- The five fields of a packet, in the order of R251, are the whole raw packet. -/
theorem packetOf_fields (raw : Raw) :
    (packetOf raw).deviceId ++ (packetOf raw).group ++ (packetOf raw).onOff ++ (packetOf raw).channel ++
      (packetOf raw).unit = raw := by
  have hjoin (start n len : Nat) :
      raw.extractLsb' (start + len) n ++ raw.extractLsb' start len = raw.extractLsb' start (n + len) :=
    BitVec.extractLsb'_append_extractLsb'_eq_extractLsb' rfl
  simp only [packetOf]
  rw [hjoin 5 26 1, hjoin 4 27 1, hjoin 2 28 2, hjoin 0 30 2]
  exact BitVec.extractLsb'_eq_self

/-! ### The statements -/

/-- Settles O53: every port is its register or a field of its packet by definition; the fields leave no gap by
`packetOf_fields`. -/
theorem outputPortsShowRegisters : Obligations.OutputPortsShowRegisters := fun o =>
  ⟨rfl, rfl, rfl, rfl, rfl, packetOf_fields o.pktRaw, rfl, rfl, rfl, rfl, rfl, rfl⟩

/-- Settles O54: by computation. -/
theorem packetExample : Obligations.PacketExample := by
  unfold Obligations.PacketExample
  decide

/-- Settles O44: in a legal state a stored value has a running countdown, which is not at 1 either, so the value
outlives stage 0. -/
theorem repeatedFrameSuppressed : Obligations.RepeatedFrameSuppressed := by
  intro s hs hm h32 hend hvalid hone hraw
  have ⟨hp, _, _, _, hrunning, _⟩ := hs
  have hcount : countdown s.dupFilter = { s.dupFilter with cdCnt := s.dupFilter.cdCnt - 1 } := by
    rw [countdown_eq, if_neg (hrunning.mp hvalid), if_neg hone]
  have hrepeat := filterRaw_repeated (f := countdown s.dupFilter) s.params (by rw [hcount, hvalid])
    (by rw [hcount, hraw])
  obtain ⟨hout, hrec, hidle⟩ := tickState_of_completesFrame hp ⟨hm, h32, hend⟩ hrepeat
  exact ⟨_, ifReachable_next hs, hout, hrec.trans hcount, hidle⟩

/-- Settles O45: after stage 0 no value is stored or it differs, for the countdown stores nothing new and clears the
value when it expires. -/
theorem newFrameAccepted : Obligations.NewFrameAccepted := by
  intro s hs hm h32 hend hnew
  have hdiffers : (countdown s.dupFilter).lastValid = true → (countdown s.dupFilter).lastRaw ≠ s.assembler.acc := by
    intro hleft
    obtain ⟨hstored, hraw⟩ := countdown_lastRaw hleft
    obtain hinvalid | hone | hne := hnew
    · exact absurd hstored (Bool.eq_false_iff.mp hinvalid)
    · simp [countdown_eq, hone] at hleft
    · exact hraw ▸ hne
  obtain ⟨hout, hrec, hidle⟩ := tickState_of_completesFrame hs.1 ⟨hm, h32, hend⟩ (filterRaw_new s.params hdiffers)
  exact ⟨_, ifReachable_next hs, hout, hrec, hidle⟩

/-- Settles O46: such a tick yields no raw packet, on a 0 sample by the hypothesis and on a 1 sample because its event
is not PAUSE. -/
theorem otherTicksOnlyCountDown : Obligations.OtherTicksOnlyCountDown := by
  intro s hs i hi hother
  obtain rfl | rfl := List.mem_pair.mp hi
  · exact ⟨_, ifReachable_next hs, tickState_only_counts_down (advance_low_raw_of_not_completesFrame (hother rfl))⟩
  · exact ⟨_, ifReachable_next hs,
      tickState_only_counts_down (advance_raw_of_ne_pause _ (classify_high_ne_pause _ _))⟩

/-- Settles O47: the ticks without an announcement iterate the countdown (`countdown_iterate`), and the next tick
compares after one countdown more. -/
theorem suppressionWindow : Obligations.SuppressionWindow := by
  intro s samples hs hvalid hcount hann
  have hrec := ticks_dupFilter_of_no_announcements hs hann
  have ⟨_, _, _, hlegal⟩ := hs
  have hafter (n : Nat) := countdown_iterate hlegal n
  simp only [hcount] at hafter
  refine ⟨_, runClocks_samples hs samples, hrec.trans (hafter _), fun hm h32 hacc hend => ?_⟩
  have hu : ((ticks samples s).feedWords []).Legal := ticks_legal samples hs
  have hparams : ((ticks samples s).feedWords []).params = s.params := ticks_params samples s
  generalize hudef : (ticks samples s).feedWords [] = u at *
  have hnext : countdown u.dupFilter = countdown^[samples.length + 1] s.dupFilter := by
    rw [Function.iterate_succ_apply', ← hrec, ← hudef]
    rfl
  rw [hafter] at hnext
  have hc : u.CompletesFrame := ⟨hm, h32, by rw [hparams, hend]⟩
  refine ⟨_, ifReachable_next hu, ?_⟩
  split_ifs at hnext ⊢
  · have hrepeat := filterRaw_repeated (v := u.assembler.acc) (f := countdown u.dupFilter) u.params
      (by rw [hnext, hvalid]) (by rw [hnext, hacc])
    obtain ⟨hout, hkept, -⟩ := tickState_of_completesFrame hu.1 hc hrepeat
    rw [hout]
    exact ⟨rfl, rfl, rfl, hkept.trans hnext⟩
  · have hnew := filterRaw_new (v := u.assembler.acc) (f := countdown u.dupFilter) u.params (by simp [hnext])
    obtain ⟨hout, hloaded, -⟩ := tickState_of_completesFrame hu.1 hc hnew
    rw [hout]
    refine ⟨rfl, rfl, hacc, ?_⟩
    rw [hloaded, hparams, hacc, ← hcount, ← hvalid, BitVec.ofNat_toNat, BitVec.setWidth_eq]

end Sys2Proof.Machine
end

section
/-!
PROOFS. The statements of spec/60_exceptions.md: the invalidation, the core's counterpart of taking an exception, in a tick
(R277), and a step of the stopped clock (R285). A cause reported by stage 2 is that of an `invalidate` from ACCUMULATING
(`advance_of_cause_ne_zero`), which yields no raw packet, so stage 3 leaves the record to the countdown.
-/

namespace Sys2Proof.Machine

/-! ### Where a cause comes from (R203, R271) -/

/-- A data event with a cause filled the window and invalidated (R210, R211). -/
theorem appendEvent_of_cause_ne_zero {c : EvCode} {a : Assembler} (h : (appendEvent c a).1.cause ≠ 0) :
    ∃ cause, appendEvent c a = invalidate cause a := by
  obtain ⟨-, heq⟩ | ⟨-, b, -, -, heq⟩ | ⟨-, -, -, heq⟩ | ⟨-, -, heq⟩ := appendEvent_cases c a
  · exact absurd (congrArg (fun q => q.1.cause) heq) h
  · exact absurd (congrArg (fun q => q.1.cause) heq) h
  · exact ⟨_, heq⟩
  · exact ⟨_, heq⟩

/-- Stage 2 reports a cause only when it invalidates, and that only in ACCUMULATING (R202, R203). -/
theorem advance_of_cause_ne_zero {a : Assembler} {ev : Event} (h : (advance a ev).1.cause ≠ 0) :
    a.mode = .accumulating ∧ ∃ cause, advance a ev = invalidate cause a := by
  obtain ⟨heq, -⟩ | ⟨-, heq⟩ | ⟨-, -, -, heq⟩ | ⟨-, hm, heq⟩ | ⟨hm, -, heq⟩ := advance_cases a ev
  · exact absurd (congrArg (fun q => q.1.cause) heq) h
  · exact absurd (congrArg (fun q => q.1.cause) heq) h
  · exact absurd (congrArg (fun q => q.1.cause) heq) h
  · exact ⟨hm, _, heq⟩
  · rw [heq] at h ⊢
    exact ⟨hm, appendEvent_of_cause_ne_zero h⟩

/-! ### The countdown, by what it leaves (R241) -/

theorem countdown_cdCnt (f : DupFilter) :
    (countdown f).cdCnt = if f.cdCnt = 0 then 0 else f.cdCnt - 1 := by
  obtain ⟨h0, heq⟩ | ⟨h1, heq⟩ | ⟨h0, -, heq⟩ := countdown_cases f <;> rw [heq]
  · rw [if_pos h0, h0]
  · simp [h1]
  · rw [if_neg h0]

/-- A countdown that still runs afterwards took one tick off and left the stored value. -/
theorem countdown_of_cdCnt_ne_zero {f : DupFilter} (h : (countdown f).cdCnt ≠ 0) :
    countdown f = { f with cdCnt := f.cdCnt - 1 } := by
  obtain ⟨h0, heq⟩ | ⟨-, heq⟩ | ⟨-, -, heq⟩ := countdown_cases f
  · exact absurd ((congrArg DupFilter.cdCnt heq).trans h0) h
  · exact absurd (congrArg DupFilter.cdCnt heq) h
  · exact heq

/-! ### An invalidation in a tick (R277) -/

/-- No raw packet comes with a cause, so stage 3 neither announces nor stores one. -/
theorem tickState_of_inv_ne_zero {b : Bool} {s : State} (h : (tickState b s).outputs.inv ≠ 0) :
    s.assembler.mode = .accumulating ∧ (tickState b s).assembler = .idle ∧
      (tickState b s).outputs.pktRaw = s.outputs.pktRaw ∧ (tickState b s).dupFilter = countdown s.dupFilter := by
  obtain ⟨hm, cause, heq⟩ := advance_of_cause_ne_zero (a := s.assembler) (ev := tickEvent b s) h
  have hraw : (advance s.assembler (tickEvent b s)).1.raw = none := by
    rw [heq]
    rfl
  obtain ⟨haccepted, -⟩ := tickState_of_no_raw hraw
  obtain ⟨hrec, hpkt⟩ := tickState_of_not_accepted haccepted
  exact ⟨hm, congrArg Prod.snd heq, hpkt, hrec⟩

/-! ### The statements -/

/-- Settles O17: `step_of_no_input`. -/
theorem stepWithoutInputHolds : Obligations.StepWithoutInputHolds := fun _ h => step_of_no_input h

/-- Settles O49: the tick's cause is that of an `invalidate` from ACCUMULATING, and the record is what the countdown
gives. -/
theorem invalidationIsPrecise : Obligations.InvalidationIsPrecise := by
  intro i s t hi h hinv
  obtain ⟨b, hexec⟩ : ∃ b, exec i s = ifReachable s (tickState b s) := by
    obtain rfl | rfl := hi <;> exact ⟨_, rfl⟩
  obtain ⟨-, rfl⟩ := ifReachable_eq_next (hexec.symm.trans h)
  obtain ⟨hm, hidle, hpkt, hrec⟩ := tickState_of_inv_ne_zero hinv
  refine ⟨hm, hidle, hpkt, ?_⟩
  rw [hrec]
  exact ⟨countdown_cdCnt _, countdown_of_cdCnt_ne_zero⟩

end Sys2Proof.Machine
end

section
/-!
PROOFS. The statements of spec/70_reset_and_hazards.md: RESET from any state (R300) and that it leaves nothing of the state
before it (R302). `resetState_feed_congr` is the reason for the second: the state after RESET is a function of the
parameters and the coming words alone.
-/

namespace Sys2Proof.Machine

/-! ### RESET (R300) -/

/-- Each of the words `1xx` runs RESET, whatever its tick and sample bits are (R91, R132). -/
theorem step_reset_word {w : InWord} (hw : w.getLsbD 2 = true) (s : State) (rest : List Stimulus) :
    step (s.feed (.port w :: rest)) = exec .reset (s.feed rest) := by
  rw [step_port, if_pos hw]

/-- RESET goes on from any registers; it asks for legal parameters alone (R11). -/
theorem exec_reset {s : State} (hp : s.params.Legal) : exec .reset s = .next (resetState s) := ifConfigured_next hp

/-- The state after RESET keeps nothing but the parameters and the coming words (R302). -/
theorem resetState_feed_congr {s u : State} (h : s.params = u.params) (xs : List Stimulus) :
    resetState (s.feed xs) = resetState (u.feed xs) := by
  simp only [resetState, State.feed, h]

/-- A run that begins with a RESET word goes on from RESET's state. -/
theorem runClocks_reset_word {s : State} {w : InWord} (hp : s.params.Legal) (hw : w.getLsbD 2 = true)
    (xs : List Stimulus) (n : Nat) :
    runClocks (n + 1) (s.feed (.port w :: xs)) = runClocks n (resetState (s.feed xs)) :=
  runClocks_succ n ((step_reset_word hw s xs).trans (exec_reset hp))

/-! ### The statements -/

/-- Settles O13: `step_reset_word` and `exec_reset`; the registers of `resetState` are the table of R50. -/
theorem resetClearsEveryRegister : Obligations.ResetClearsEveryRegister := fun s hp =>
  ⟨fun _ rest hw => step_reset_word hw s rest, resetState s, exec_reset hp, rfl, rfl, rfl, rfl, rfl, rfl⟩

/-- Settles O14: both runs go on from RESET's state, which is the same for both. -/
theorem resetErasesHistory : Obligations.ResetErasesHistory := by
  intro s u w xs n hparams hp hw
  calc runClocks (n + 1) (s.feed (.port w :: xs))
    _ = runClocks n (resetState (s.feed xs)) := runClocks_reset_word hp hw xs n
    _ = runClocks n (resetState (u.feed xs)) := by rw [resetState_feed_congr hparams]
    _ = runClocks (n + 1) (u.feed (.port w :: xs)) := (runClocks_reset_word (hparams ▸ hp) hw xs n).symm

end Sys2Proof.Machine
end

section
/-!
PROOFS. The remaining statements: the encoder against the decoder (R91, R94, R97), the faults of unreachable states (I8
of spec/93_implementation_defined.md) and the invariant at reset. `exec_faults_of_illegal_registers` is the counterpart
of `exec_refused_of_illegal_params`.
-/

namespace Sys2Proof.Machine

/-! ### Where an operation faults (I8) -/

/-- At legal parameters `ifReachable` stops on illegal registers, with a fault. -/
theorem ifReachable_fault {s t : State} (hp : s.params.Legal) (hr : ¬ s.toRegs.Legal s.params) :
    ifReachable s t = .fault .unreachableState := by
  rw [ifReachable, if_pos hp, if_neg hr]

/-- Every operation that has a meaning and reads the registers, that is all but RESET, NOP and the reserved event code,
faults on illegal ones. -/
theorem exec_faults_of_illegal_registers {i : Instr} {s : State} (hreset : i ≠ .reset) (hnop : i ≠ .nop)
    (hreserved : i ≠ .evReserved7) (hp : s.params.Legal) (hr : ¬ s.toRegs.Legal s.params) :
    exec i s = .fault .unreachableState := by
  obtain ⟨hi, -⟩ | ⟨hi, -⟩ | ⟨hi, -⟩ | ⟨b, hexec⟩ | ⟨f, hexec⟩ := exec_cases i s
  · exact absurd hi hreset
  · exact absurd hi hnop
  · exact absurd hi hreserved
  · exact hexec.trans (ifReachable_fault hp hr)
  · exact hexec.trans (ifReachable_fault hp hr)

/-! ### The statements -/

/-- Settles O5: format by format, by the decoder's rule for its words. -/
theorem decodeOfEncode : Obligations.DecodeOfEncode := by
  intro i
  cases i with
  | reset | nop | tick0 | tick1 => exact decode_port _
  | evNone => exact decode_event .none
  | evInvalid => exact decode_event .invalid
  | evHighShort => exact decode_event .highShort
  | evLowShort => exact decode_event .lowShort
  | evLowLong => exact decode_event .lowLong
  | evSync => exact decode_event .sync
  | evPause => exact decode_event .pause
  | evReserved7 => rfl
  | qBit0 | qBit1 => exact decode_quartet _

/-- Settles O6: RESET and NOP are written with their ignored bits set, so they go by the decoder's rule for input words;
every other word is the one `encode` gives its operation. -/
theorem writtenWordsDecode : Obligations.WrittenWordsDecode :=
  ⟨decode_port 0b101, decode_port 0b001, decodeOfEncode .tick0, decodeOfEncode .tick1, decodeOfEncode .evHighShort,
    decodeOfEncode .evSync, decodeOfEncode .qBit0, decodeOfEncode .qBit1⟩

/-- Settles O52: none of the eleven is RESET, NOP or the reserved event code. -/
theorem unreachableStateFaults : Obligations.UnreachableStateFaults := by
  intro s hp hr i hi
  have hne : i ≠ .reset ∧ i ≠ .nop ∧ i ≠ .evReserved7 := by
    revert i
    decide
  obtain ⟨hreset, hnop, hreserved⟩ := hne
  exact exec_faults_of_illegal_registers hreset hnop hreserved hp hr

/-- Settles O55: `inv_of_reset_registers`, at the default parameters. -/
theorem resetMeetsInvariant : Obligations.ResetMeetsInvariant := inv_of_reset_registers Params.default_legal rfl

end Sys2Proof.Machine
end
